-- ==== Sys2Proof/Word.lean ====
section
/-! DEFINITION. The two word types of the block: the byte every datum is (20_memory.md R61) and the 16-bit operation word
(30_encoding.md R80). -/

namespace Sys2Proof

/-- A byte, an unsigned value 0 to 255 (00_scope.md R9). -/
abbrev Byte := BitVec 8

/-- An operation word `{op8, imm8}` (30_encoding.md R80). -/
abbrev Word := BitVec 16

end Sys2Proof
end

