-- ==== Sys2Proof/Config.lean ====
section
/-! DEFINITION. The parameters of 00_scope.md R7, the constants the spec fixes, and the free values. An OPEN parameter is an
opaque constant: nothing is known of it. A parameter with a default has the spec's value in `Config.params`; the machine itself
takes any `Params` (entry 10). -/

namespace Sys2Proof

/-- LATCH_MODE (00_scope.md R7, 42_latch_flicker.md R162). -/
inductive LatchMode where
  | ctc | normal
deriving DecidableEq, Repr

/-- LATCH_ACTION (00_scope.md R7, 42_latch_flicker.md R161). -/
inductive LatchAction where
  | toggle | clear
deriving DecidableEq, Repr

/-- SPI_BIT_ORDER (00_scope.md R7, 20_memory.md R61). -/
inductive BitOrder where
  | msbFirst | lsbFirst
deriving DecidableEq, Repr

/-- The parameters a model takes (00_scope.md R7). -/
structure Params where
  fClk            : Nat
  rxFifoDepth     : Nat
  spiCpol         : Bool
  spiBitOrder     : BitOrder
  spiClkDiv       : Nat
  ltWidth         : Nat
  latchCmp        : Nat
  latchPrescale   : Nat
  latchMode       : LatchMode
  latchAction     : LatchAction
  ftWidth         : Nat
  flickerCmp      : Nat
  flickerPrescale : Nat
  chain           : List Byte → Byte → Byte

/-- The column "legal values" of 00_scope.md R7. -/
structure Params.Legal (p : Params) : Prop where
  fClk            : 0 < p.fClk
  rxFifoDepth     : 1 ≤ p.rxFifoDepth
  spiClkDiv       : 0 < p.spiClkDiv
  ltWidth         : 1 ≤ p.ltWidth
  latchCmp        : p.latchCmp < 2 ^ p.ltWidth
  latchPrescale   : 0 < p.latchPrescale
  ftWidth         : 1 ≤ p.ftWidth
  flickerCmp      : p.flickerCmp < 2 ^ p.ftWidth
  flickerPrescale : 0 < p.flickerPrescale

namespace Config

/-- UART_DATA_BITS (00_scope.md R7). -/
def uartDataBits : Nat := 8

/-- UART_PARITY is none: no parity bit is sent (00_scope.md R7). -/
def uartParityBits : Nat := 0

/-- UART_STOP_BITS (00_scope.md R7). -/
def uartStopBits : Nat := 1

/-- UART_DOUBLE_SPEED (00_scope.md R7). -/
def uartDoubleSpeed : Bool := true

/-- UART_DIVISOR (00_scope.md R7). -/
def uartDivisor : Nat := 1

/-- `spi.master`, fixed 1 (10_state.md R30). -/
def spiMaster : Bool := true

/-- SPI_CPHA, fixed 1: setup on the leading edge, sample on the trailing edge (00_scope.md R7). -/
def spiCpha : Bool := true

/-- LATCH_CMP, OPEN: any value of the default width (00_scope.md R7). -/
opaque latchCmp : BitVec 8

/-- FLICKER_CMP, OPEN: any value of the default width (00_scope.md R7). -/
opaque flickerCmp : BitVec 8

/-- SPI_CLK_DIV, OPEN, is one more than this free natural number, so any positive integer (00_scope.md R7). -/
opaque spiClkDivLessOne : Nat

/-- LATCH_PRESCALE, OPEN, is one more than this free natural number (00_scope.md R7). -/
opaque latchPrescaleLessOne : Nat

/-- FLICKER_PRESCALE, OPEN, is one more than this free natural number (00_scope.md R7). -/
opaque flickerPrescaleLessOne : Nat

/-- CHAIN, OPEN: the downstream chain's answer to a byte, given the bytes sent before (41_spi.md R130). -/
opaque chain : List Byte → Byte → Byte

/-- The spec's defaults for given OPEN parameters (00_scope.md R7). -/
def defaults (latchCmp flickerCmp : BitVec 8) (chain : List Byte → Byte → Byte)
    (spiClkDiv latchPrescale flickerPrescale : Nat) : Params :=
  { fClk := 16000000
    rxFifoDepth := 1
    spiCpol := false
    spiBitOrder := .msbFirst
    spiClkDiv := spiClkDiv
    ltWidth := 8
    latchCmp := latchCmp.toNat
    latchPrescale := latchPrescale
    latchMode := .ctc
    latchAction := .toggle
    ftWidth := 8
    flickerCmp := flickerCmp.toNat
    flickerPrescale := flickerPrescale
    chain := chain }

/-- The parameters of `exec`, `step` and `core`: the spec's defaults, and the OPEN ones free. DESIGN CHOICE, unsafe for a claim that
rests on a default (entry 10); `execWith`, `takeMove` and `stepWith` take any others. -/
def params : Params :=
  defaults latchCmp flickerCmp chain (spiClkDivLessOne + 1) (latchPrescaleLessOne + 1) (flickerPrescaleLessOne + 1)

end Config

/-- Who takes the next step (10_state.md R22), with UP's draws (43_uart.md R182: the data byte, and `ok` true for a valid stop
bit). UTX has two steps that are never enabled together, URX's only step is UP's frame, and CH has none. -/
inductive Move where
  | req
  | utx
  | spie
  | lt
  | ft
  | up (d : Byte) (ok : Bool)
deriving DecidableEq, Repr, Inhabited

/-- The free choice of who moves next, when the state's own list of choices has run out. DESIGN CHOICE, safe (entry 3). -/
opaque Config.freeMove : Nat → Move

/-- UART_BAUD (00_scope.md R7, 43_uart.md R181). Timing only. -/
def Params.uartBaud (p : Params) : Rat := p.fClk / (8 * (Config.uartDivisor + 1))

/-- Bits of a UART frame: a start bit, the data bits, no parity, the stop bit (43_uart.md R180, R181). -/
def Config.uartFrameBits : Nat := 1 + uartDataBits + uartParityBits + uartStopBits

/-- Seconds of a UART frame (43_uart.md R181, 70_reset_and_hazards.md R260). Timing only. -/
def Params.uartFrameSeconds (p : Params) : Rat := Config.uartFrameBits / p.uartBaud

/-- Seconds the latch line stays high after LATCH_ARM (70_reset_and_hazards.md R260). Timing only. -/
def Params.latchHighSeconds (p : Params) : Rat := (p.latchCmp + 1) * p.latchPrescale / p.fClk

/-- The flicker frequency in Hz (42_latch_flicker.md R171, 70_reset_and_hazards.md R260). Timing only. -/
def Params.flickerHz (p : Params) : Rat := p.fClk / (2 * p.flickerPrescale * (p.flickerCmp + 1))

end Sys2Proof
end

