-- ==== Sys2Proof/Syntax.lean ====
section
/-! DEFINITION. The 13 operations of the block (30_encoding.md R81), their names, and the assembly line of R87 with the three
pseudo-operations of R88 to R90 as abstract syntax. -/

namespace Sys2Proof

/-- The names of the 13 operations, in the order of the opcode table (30_encoding.md R81). Fault records name an operation
by it (60_exceptions.md R211). -/
inductive OpName where
  | pinInit | uartInit | spiInit | flickerStart
  | spiXfer
  | latchWaitLow | latchDisconnect | latchTimerStop | latchDriveHigh | latchArm | latchRead
  | uartRecv | uartSend
deriving DecidableEq, Repr

/-- An operation with its operand (30_encoding.md R81, R82). Only SPI_XFER and UART_SEND take one: the byte to send. -/
inductive Instr where
  | pinInit
  | uartInit
  | spiInit
  | flickerStart
  | spiXfer (b : Byte)
  | latchWaitLow
  | latchDisconnect
  | latchTimerStop
  | latchDriveHigh
  | latchArm
  | latchRead
  | uartRecv
  | uartSend (b : Byte)
deriving DecidableEq, Repr

/-- The operation's name. -/
def Instr.name : Instr → OpName
  | .pinInit => .pinInit
  | .uartInit => .uartInit
  | .spiInit => .spiInit
  | .flickerStart => .flickerStart
  | .spiXfer _ => .spiXfer
  | .latchWaitLow => .latchWaitLow
  | .latchDisconnect => .latchDisconnect
  | .latchTimerStop => .latchTimerStop
  | .latchDriveHigh => .latchDriveHigh
  | .latchArm => .latchArm
  | .latchRead => .latchRead
  | .uartRecv => .uartRecv
  | .uartSend _ => .uartSend

/-- The byte operand; 0 for an operation without one (30_encoding.md R80). -/
def Instr.imm : Instr → Byte
  | .spiXfer b => b
  | .uartSend b => b
  | _ => 0

/-- What an assembly line may name: one of the 13 operations or a pseudo-operation (30_encoding.md R87 to R90). -/
inductive Mnemonic where
  | op (o : OpName)
  | latchTrigger
  | boot
  | ack
deriving DecidableEq, Repr

/-- An assembly line `mnemonic [ " #" byte ] [ " -> x" index ]` (30_encoding.md R87). -/
structure Line where
  mnemonic : Mnemonic
  imm      : Option Byte
  dst      : Option Nat
deriving DecidableEq, Repr

end Sys2Proof
end

