-- ==== Sys2Proof/Machine/State.lean ====
section
/-! DEFINITION. The state of the block (10_state.md), as plain data, and its power-on value (10_state.md R51). INVENTORY.md
lists each field with the rule that names it. -/

namespace Sys2Proof.Machine

/-- The eight lines of the block (10_state.md R23). -/
inductive Pin where
  | rxd | txd | sck | mosi | ss | miso | latch | flicker
deriving DecidableEq, Repr

/-- One bit for each line (10_state.md R23). -/
structure PinBits where
  rxd     : Bool
  txd     : Bool
  sck     : Bool
  mosi    : Bool
  ss      : Bool
  miso    : Bool
  latch   : Bool
  flicker : Bool
deriving DecidableEq, Repr

/-- What a line shows to the outside: 0, 1 or not driven (10_state.md R24). -/
inductive Level where
  | low | high | z
deriving DecidableEq, Repr

/-- Pin configuration (10_state.md R23, R25). -/
structure Pins where
  /-- `pins.ddr[p]`: 1 for a driven output. -/
  ddr   : PinBits
  /-- `pins.port[p]`: an output's software level, an input's pull-up. -/
  port  : PinBits
  /-- `pins.ready`: PIN_INIT has run. -/
  ready : Bool
deriving DecidableEq, Repr

/-- UART state (10_state.md R26 to R28, R39). -/
structure Uart where
  rxEn       : Bool
  txEn       : Bool
  configured : Bool
  /-- `uart.rxc_ie`, hardwired 0. -/
  rxcIe      : Bool
  /-- `uart.udre_ie`, hardwired 0. -/
  udreIe     : Bool
  /-- `uart.rx_fifo`, oldest byte first. -/
  rxFifo     : List Byte
  txBuf      : Option Byte
  txShift    : Option Byte
deriving DecidableEq, Repr

/-- SPI state (10_state.md R30, R31, R39). -/
structure Spi where
  en       : Bool
  /-- `spi.ie`, hardwired 0. -/
  ie       : Bool
  /-- `spi.shift_out`: the byte being shifted out, none when no transfer is in progress. -/
  shiftOut : Option Byte
  done     : Bool
  rx       : Byte
deriving DecidableEq, Repr

/-- A timer: the latch timer (10_state.md R33) and the flicker timer (R35) have the same fields. A counter is a natural number
below 2 to its width, kept so by every step (entry 11). -/
structure Timer where
  run       : Bool
  cnt       : Nat
  cmp       : Nat
  connected : Bool
  oc        : Bool
  /-- `lt.ie` or `ft.ie`, hardwired 0. -/
  ie        : Bool
deriving DecidableEq, Repr

/-- An entry of `hist.edges` (10_state.md R36): a line and the level it went to. -/
structure Edge where
  line  : Pin
  level : Level
deriving DecidableEq, Repr

/-- The observation histories, oldest entry first (10_state.md R29, R32, R36). No operation reads them; the chain's answer
reads `busOut` (41_spi.md R130). -/
structure Hist where
  serialIn  : List Byte
  serialOut : List Byte
  busOut    : List Byte
  busIn     : List Byte
  edges     : List Edge
deriving DecidableEq, Repr

/-- The unit a NotConfigured record names (60_exceptions.md R211). -/
inductive SetupUnit where
  | pins | uart | spi
deriving DecidableEq, Repr

/-- A fault RECORD of the spec (60_exceptions.md R211, the closed list). Recording one is part of a step that goes on. -/
inductive FaultRecord where
  /-- Code 1, raised by REQ at decode, with the word. -/
  | illegalOperation (w : Word)
  /-- Code 2, raised by REQ at precheck: an operation before its unit's setup. -/
  | notConfigured (op : OpName) (unit : SetupUnit)
  /-- Code 3, raised by REQ at precheck: a setup repeated. -/
  | reconfigured (op : OpName)
  /-- Code 4, raised by URX: a frame with the receive FIFO full. -/
  | rxOverrun (d : Byte)
  /-- Code 5, raised by URX: a frame with a 0 stop bit. -/
  | rxFramingError (d : Byte)
  /-- Code 6, raised by URX: a frame before UART_INIT. -/
  | rxWhileDisabled (d : Byte)
deriving DecidableEq, Repr

/-- What the requester has issued: an operation, or a word that is none (its fault leaves `req.op` set: 60_exceptions.md R212). -/
inductive Issued where
  | op (i : Instr)
  | illegal (w : Word)
deriving DecidableEq, Repr

/-- The value of `req.op` (10_state.md R41): the operation in progress and its stage, the index of the `await` it is held at
(1 for the first). Stage 0, no `await` reached, is where a fault halts the requester (entry 6). -/
structure InProgress where
  issued : Issued
  stage  : Nat
deriving DecidableEq, Repr

/-- One operation line the requester will issue: the word, and the variable `x[i]` named after `->` (30_encoding.md R86). -/
structure Request where
  word : Word
  dst  : Option Nat
deriving DecidableEq, Repr

/-- The requester, as far as the block sees it (10_state.md R41), with its variables and, as the model's own fields, its coming
lines and the destination of the line being run (entries 2, 8, 9). -/
structure Req where
  op    : Option InProgress
  /-- The requester's variables, as (index, value) pairs in canonical form: indexes strictly rising, no value 0. -/
  x     : List Host.Cell
  dst   : Option Nat
  queue : List Request
deriving DecidableEq, Repr

/-- The whole state. `sched` and `clock` are the model's own: the coming choices of who moves next, and the index of the next
free choice (entry 3). -/
structure State where
  pins   : Pins
  uart   : Uart
  spi    : Spi
  lt     : Timer
  ft     : Timer
  hist   : Hist
  faults : List FaultRecord
  req    : Req
  sched  : List Move
  clock  : Nat
deriving DecidableEq, Repr

/-- Why a step of the machine stops. EMPTY: the spec stops no step. Its faults are records that a step adds (60_exceptions.md
R212), a run has no end (70_reset_and_hazards.md R263), and an agent without an enabled step waits (00_scope.md R11). Nobody
raises one, which is safe. -/
inductive Fault where
deriving DecidableEq, Repr

/-- Why the model gives an instruction no meaning. -/
inductive Refusal where
  /-- An instruction without a meaning yet, named by its mnemonic. Raised by exec's refused arms only, of which none is left.
  Safe. -/
  | notModelled (mnemonic : String)
deriving DecidableEq, Repr

/-- What a step or a meaning answers. -/
abbrev Result := Host.Outcome State Fault Refusal

/-- Every line 0. -/
def PinBits.zero : PinBits :=
  { rxd := false, txd := false, sck := false, mosi := false, ss := false, miso := false, latch := false, flicker := false }

/-- A timer at power-on (10_state.md R51). -/
def Timer.reset : Timer := { run := false, cnt := 0, cmp := 0, connected := false, oc := false, ie := false }

/-- The state at power-on (10_state.md R51, 70_reset_and_hazards.md R240). R51 leaves `spi.rx` unspecified: 0 is a DESIGN
CHOICE, unsafe (entry 7). `req.x`, `req.dst`, `req.queue`, `sched` and `clock` are not in R51 (entries 8, 21). -/
def State.reset : State :=
  { pins := { ddr := PinBits.zero, port := PinBits.zero, ready := false }
    uart :=
      { rxEn := false, txEn := false, configured := false, rxcIe := false, udreIe := false
        rxFifo := [], txBuf := none, txShift := none }
    spi := { en := false, ie := false, shiftOut := none, done := false, rx := 0 }
    lt := Timer.reset
    ft := Timer.reset
    hist := { serialIn := [], serialOut := [], busOut := [], busIn := [], edges := [] }
    faults := []
    req := { op := none, x := [], dst := none, queue := [] }
    sched := []
    clock := 0 }

end Sys2Proof.Machine
end

