-- ==== Sys2Proof/Machine/Flags.lean ====
section
/-! DEFINITION. What the operations poll or read (10_state.md R37): the status flags, the level of a line, the condition of each
operation's `await`; the names of the latch states (R34); and the interrupt conditions (60_exceptions.md R214). -/

namespace Sys2Proof.Machine

/-- The bit of a line. -/
def pinBit (b : PinBits) (p : Pin) : Bool :=
  match p with
  | .rxd => b.rxd
  | .txd => b.txd
  | .sck => b.sck
  | .mosi => b.mosi
  | .ss => b.ss
  | .miso => b.miso
  | .latch => b.latch
  | .flicker => b.flicker

/-- A driven level. -/
def drive (b : Bool) : Level := if b then .high else .low

/-- `level(p)` (10_state.md R24, 42_latch_flicker.md R140). The rules use it on LATCH and FLICKER only (entry 17). -/
def level (s : State) (p : Pin) : Level :=
  if pinBit s.pins.ddr p = false then .z
  else if p = .latch ∧ s.lt.connected then drive s.lt.oc
  else if p = .flicker ∧ s.ft.connected then drive s.ft.oc
  else drive (pinBit s.pins.port p)

/-- `rx_ready` (10_state.md R27). -/
def rxReady (s : State) : Bool := !s.uart.rxFifo.isEmpty

/-- `tx_ready` (10_state.md R28). -/
def txReady (s : State) : Bool := s.uart.txBuf.isNone

/-- The latch line reads low (10_state.md R37). -/
def latchLow (s : State) : Bool := level s .latch = .low

/-- The condition of the operation's `await` (41_spi.md R121, 42_latch_flicker.md R141, 43_uart.md R186, R187). An operation
without an `await` never waits. -/
def awaitHolds (i : Instr) (s : State) : Bool :=
  match i with
  | .spiXfer _ => s.spi.done
  | .latchWaitLow => latchLow s
  | .uartRecv => rxReady s
  | .uartSend _ => txReady s
  | _ => true

/-- The operations that can be held at an `await` (70_reset_and_hazards.md R255: the four waiting operations). -/
def waits (i : Instr) : Bool :=
  match i with
  | .spiXfer _ | .latchWaitLow | .uartRecv | .uartSend _ => true
  | _ => false

/-- A record that REQ raised: codes 1 to 3 (60_exceptions.md R211, R212). -/
def raisedByReq (f : FaultRecord) : Bool :=
  match f with
  | .illegalOperation _ | .notConfigured _ _ | .reconfigured _ => true
  | _ => false

/-- The record's code (60_exceptions.md R211). -/
def faultCode (f : FaultRecord) : Nat :=
  match f with
  | .illegalOperation _ => 1
  | .notConfigured _ _ => 2
  | .reconfigured _ => 3
  | .rxOverrun _ => 4
  | .rxFramingError _ => 5
  | .rxWhileDisabled _ => 6

/-- The requester has raised a fault, so it has no further step (60_exceptions.md R212). -/
def halted (s : State) : Bool := s.faults.any raisedByReq

/-- The document's latch states (10_state.md R34). -/
inductive LatchState where
  | disconnectedIdle | latching | running | transient
deriving DecidableEq, Repr

/-- Which latch state the timer's fields and `pins.port[LATCH]` give (10_state.md R34). -/
def latchState (s : State) : LatchState :=
  match s.lt.connected, s.lt.run, s.pins.port.latch with
  | false, false, false => .disconnectedIdle
  | false, _, true => .latching
  | true, true, _ => .running
  | _, _, _ => .transient

/-- The five interrupt sources (60_exceptions.md R214). -/
inductive IrqSource where
  | uartRx | uartTxEmpty | spiDone | latchCompare | flickerCompare
deriving DecidableEq, Repr

/-- The condition a source would signal (60_exceptions.md R214). A timer's compare event is the tick to come. -/
def irqCondition (s : State) (q : IrqSource) : Bool :=
  match q with
  | .uartRx => rxReady s
  | .uartTxEmpty => txReady s
  | .spiDone => s.spi.done
  | .latchCompare => s.lt.run && s.lt.cnt == s.lt.cmp
  | .flickerCompare => s.ft.run && s.ft.cnt == s.ft.cmp

/-- The source's enable field (60_exceptions.md R214, 10_state.md R39). -/
def irqEnable (s : State) (q : IrqSource) : Bool :=
  match q with
  | .uartRx => s.uart.rxcIe
  | .uartTxEmpty => s.uart.udreIe
  | .spiDone => s.spi.ie
  | .latchCompare => s.lt.ie
  | .flickerCompare => s.ft.ie

/-- An interrupt is pending where its source is enabled and its condition holds (60_exceptions.md R214). -/
def irqPending (s : State) (q : IrqSource) : Bool := irqEnable s q && irqCondition s q

end Sys2Proof.Machine
end

