-- ==== Sys2Proof/Machine/Ops.lean ====
section
/-! DEFINITION. The named operations over the state: replacing a unit, the requester's variables, recording edges
(10_state.md R36), raising a fault (60_exceptions.md R212), the common checks (40_init.md R100), and the one shape of a
requester's step for an operation (00_scope.md R11, R12). -/

namespace Sys2Proof.Machine

/-- The state with other pins. -/
def State.setPins (s : State) (v : Pins) : State := { s with pins := v }

/-- The state with another UART. -/
def State.setUart (s : State) (v : Uart) : State := { s with uart := v }

/-- The state with another SPI unit. -/
def State.setSpi (s : State) (v : Spi) : State := { s with spi := v }

/-- The state with another latch timer. -/
def State.setLt (s : State) (v : Timer) : State := { s with lt := v }

/-- The state with another flicker timer. -/
def State.setFt (s : State) (v : Timer) : State := { s with ft := v }

/-- The state with other histories. -/
def State.setHist (s : State) (v : Hist) : State := { s with hist := v }

/-- The state with other fault records. -/
def State.setFaults (s : State) (v : List FaultRecord) : State := { s with faults := v }

/-- The state with another requester. -/
def State.setReq (s : State) (v : Req) : State := { s with req := v }

/-- The state with other coming choices of who moves. -/
def State.setSched (s : State) (v : List Move) : State := { s with sched := v }

/-- The state with another free-choice index. -/
def State.setClock (s : State) (v : Nat) : State := { s with clock := v }

/-- `req.op <- v` (10_state.md R41). -/
def State.setOp (s : State) (v : Option InProgress) : State := s.setReq { s.req with op := v }

/-- `pins.port[LATCH] <- v` (42_latch_flicker.md R142, R144). -/
def setLatchPort (s : State) (v : Bool) : State := s.setPins { s.pins with port := { s.pins.port with latch := v } }

/-- The requester's variable `x[n]`; 0 where nothing is listed (entry 8). -/
def readVar (x : List Host.Cell) (n : Nat) : Byte :=
  match x with
  | [] => 0
  | c :: rest => if c.1 = n then c.2 else readVar rest n

/-- Lists index `n` with value `v`, in place of what was listed. -/
def insertVar (x : List Host.Cell) (n : Nat) (v : Byte) : List Host.Cell :=
  match x with
  | [] => [(n, v)]
  | c :: rest =>
    if c.1 < n then c :: insertVar rest n v
    else if c.1 = n then (n, v) :: rest
    else (n, v) :: c :: rest

/-- `x[n] <- v`, keeping the canonical form: indexes strictly rising, no value 0 (entry 8). -/
def writeVar (x : List Host.Cell) (n : Nat) (v : Byte) : List Host.Cell :=
  if v = 0 then x.filter (fun c => decide (c.1 ≠ n)) else insertVar x n v

/-- The canonical form of the requester's variables: indexes strictly rising, no value 0. -/
def varsWf (x : List Host.Cell) : Bool :=
  match x with
  | [] => true
  | c :: rest => c.2 != 0 && rest.all (fun d => decide (c.1 < d.1)) && varsWf rest

/-- The edge a step from `before` to `after` makes on line `p`, if any (10_state.md R36). -/
def edgeOn (before after : State) (p : Pin) : List Edge :=
  if level before p = level after p then [] else [{ line := p, level := level after p }]

/-- Appends the edges of LATCH and FLICKER that a step has made (10_state.md R36). -/
def recordEdges (before after : State) : State :=
  after.setHist { after.hist with
    edges := after.hist.edges ++ (edgeOn before after .latch ++ edgeOn before after .flicker) }

/-- Adds a record to the set of faults: a list without repeats (10_state.md R50, entry 12). -/
def addFault (f : FaultRecord) (fs : List FaultRecord) : List FaultRecord :=
  if f ∈ fs then fs else fs ++ [f]

/-- `raise` as URX does it: the record is added and the step goes on (60_exceptions.md R212). -/
def raiseFault (f : FaultRecord) (s : State) : State := s.setFaults (addFault f s.faults)

/-- `raise` as REQ does it: the record is added, nothing else is written, and `req.op` stays set at stage 0, so the requester is
halted (60_exceptions.md R212). -/
def raiseReqFault (f : FaultRecord) (o : Issued) (s : State) : State :=
  (raiseFault f s).setOp (some { issued := o, stage := 0 })

/-- The common checks in their order; the first that fails names its fault (40_init.md R100, 60_exceptions.md R213). -/
def precheck (i : Instr) (s : State) : Option FaultRecord :=
  if i.name ≠ .pinInit ∧ s.pins.ready = false then some (.notConfigured i.name .pins)
  else if i.name = .uartInit ∧ s.uart.configured = true then some (.reconfigured i.name)
  else if i.name = .spiInit ∧ s.spi.en = true then some (.reconfigured i.name)
  else if i.name = .flickerStart ∧ s.ft.run = true then some (.reconfigured i.name)
  else if (i.name = .uartRecv ∨ i.name = .uartSend) ∧ s.uart.configured = false then some (.notConfigured i.name .uart)
  else if i.name = .spiXfer ∧ s.spi.en = false then some (.notConfigured i.name .spi)
  else none

/-- The requester's step for operation `i` (00_scope.md R11, R12; 10_state.md R41). A halted requester has none. With no
operation in progress it starts `i`: the common checks, then `start`. With `i` held at its `await` it takes `resume`. With
another operation in progress `i` does not start (entry 16). -/
def opAdvance (i : Instr) (start resume : State → State) (s : State) : State :=
  if halted s then s
  else
    match s.req.op with
    | none =>
      match precheck i s with
      | some f => raiseReqFault f (.op i) s
      | none => start s
    | some c => if c = { issued := .op i, stage := 1 } then resume s else s

/-- What follows operation `i`'s `await`, taken in a later step than its issue: where the `await`'s condition holds the last piece
runs and the operation ends, else the operation stays held (00_scope.md R11). -/
def awaitThen (i : Instr) (effect : State → State) (s : State) : State :=
  if awaitHolds i s then (effect s).setOp none else s

/-- The operation is held at its `await` (10_state.md R41: stage 1). -/
def holdAt (i : Instr) (s : State) : State := s.setOp (some { issued := .op i, stage := 1 })

/-- An operation without an `await`: one atomic step. -/
def runAtOnce (i : Instr) (effect : State → State) (s : State) : Result :=
  .next (recordEdges s (opAdvance i effect (fun t => t) s))

/-- An operation with an `await`. Its issue is a step of its own, which runs the piece before the `await`, nothing where there is
none, and leaves the operation held; what follows the `await` is a later step (00_scope.md R11, R12; entry 5). -/
def runWaiting (i : Instr) (first effect : State → State) (s : State) : Result :=
  .next (recordEdges s (opAdvance i (fun t => holdAt i (first t)) (awaitThen i effect) s))

end Sys2Proof.Machine
end

