-- ==== Sys2Proof/Machine/Operands.lean ====
section
/-! DEFINITION. An operation's operand and result. The one operand form is `imm8`, which the decoder has put into the `Instr`
(30_encoding.md R82). A result goes to the requester's variable named by the line, or nowhere (30_encoding.md R86). -/

namespace Sys2Proof.Machine

/-- `return v` (30_encoding.md R86): `x[i] <- v` for the destination the line names, else the result is discarded. -/
def deliver (v : Byte) (s : State) : State :=
  match s.req.dst with
  | some n => s.setReq { s.req with x := writeVar s.req.x n v }
  | none => s

/-- A 1-bit result widened with zeros (00_scope.md R9, `zext`; entry 8). -/
def bitResult (b : Bool) : Byte := if b then 1 else 0

end Sys2Proof.Machine
end

