-- ==== Sys2Proof/Machine/LatchFlicker.lean ====
section
/-! DEFINITION. The latch operations (42_latch_flicker.md R141 to R146) and the ticks of the two counters (R160, R170). -/

namespace Sys2Proof.Machine

/-- LATCH_WAIT_LOW (42_latch_flicker.md R141): the step that passes the `await` writes nothing. -/
def execLatchWaitLow (s : State) : Result := runWaiting .latchWaitLow (fun t => t) (fun t => t) s

/-- LATCH_DISCONNECT's writes (42_latch_flicker.md R142). -/
def latchDisconnect (s : State) : State := (setLatchPort s false).setLt { s.lt with connected := false }

/-- LATCH_DISCONNECT (42_latch_flicker.md R142). -/
def execLatchDisconnect (s : State) : Result := runAtOnce .latchDisconnect latchDisconnect s

/-- LATCH_TIMER_STOP's write (42_latch_flicker.md R143). -/
def latchTimerStop (s : State) : State := s.setLt { s.lt with run := false }

/-- LATCH_TIMER_STOP (42_latch_flicker.md R143). -/
def execLatchTimerStop (s : State) : Result := runAtOnce .latchTimerStop latchTimerStop s

/-- LATCH_DRIVE_HIGH's write (42_latch_flicker.md R144). -/
def latchDriveHigh (s : State) : State := setLatchPort s true

/-- LATCH_DRIVE_HIGH (42_latch_flicker.md R144). -/
def execLatchDriveHigh (s : State) : Result := runAtOnce .latchDriveHigh latchDriveHigh s

/-- LATCH_ARM's writes (42_latch_flicker.md R145). -/
def latchArm (p : Params) (s : State) : State :=
  s.setLt { s.lt with cnt := 0, cmp := p.latchCmp, oc := s.pins.port.latch, connected := true, run := true }

/-- LATCH_ARM for given parameters (42_latch_flicker.md R145, 00_scope.md R7). -/
def runLatchArm (p : Params) (s : State) : Result := runAtOnce .latchArm (latchArm p) s

/-- LATCH_ARM (42_latch_flicker.md R145). -/
def execLatchArm (s : State) : Result := runLatchArm Config.params s

/-- LATCH_READ's result: whether the line is 1 (42_latch_flicker.md R146). -/
def latchRead (s : State) : State := deliver (bitResult (level s .latch = .high)) s

/-- LATCH_READ (42_latch_flicker.md R146). -/
def execLatchRead (s : State) : Result := runAtOnce .latchRead latchRead s

/-- What a compare event makes of a connected latch output (42_latch_flicker.md R160, R161). -/
def latchAct (a : LatchAction) (oc : Bool) : Bool :=
  match a with
  | .clear => false
  | .toggle => !oc

/-- LT_TICK on the latch timer (42_latch_flicker.md R160). -/
def latchTick (p : Params) (t : Timer) : Timer :=
  if t.cnt = t.cmp then
    { t with
      oc := if t.connected then latchAct p.latchAction t.oc else t.oc
      cnt := match p.latchMode with
        | .ctc => 0
        | .normal => (t.cnt + 1) % 2 ^ p.ltWidth }
  else { t with cnt := (t.cnt + 1) % 2 ^ p.ltWidth }

/-- LT's step, enabled exactly when the counter runs (42_latch_flicker.md R160). -/
def ltStep (p : Params) (s : State) : State := if s.lt.run then s.setLt (latchTick p s.lt) else s

/-- FT_TICK on the flicker timer (42_latch_flicker.md R170). -/
def flickerTick (p : Params) (t : Timer) : Timer :=
  if t.cnt = t.cmp then { t with oc := if t.connected then !t.oc else t.oc, cnt := 0 }
  else { t with cnt := (t.cnt + 1) % 2 ^ p.ftWidth }

/-- FT's step, enabled exactly when the counter runs (42_latch_flicker.md R170). -/
def ftStep (p : Params) (s : State) : State := if s.ft.run then s.setFt (flickerTick p s.ft) else s

end Sys2Proof.Machine
end

