-- ==== Sys2Proof/Machine/SpiMaster.lean ====
section
/-! DEFINITION. The SPI master: SPI_XFER (41_spi.md R121), the engine's step (R122), and the reference chains (R131, R132). -/

namespace Sys2Proof.Machine

/-- SPI_XFER's stage 0: start the transfer (41_spi.md R121). -/
def spiStart (b : Byte) (s : State) : State := s.setSpi { s.spi with shiftOut := some b }

/-- SPI_XFER's stage 1: collect the result (41_spi.md R121). -/
def spiCollect (s : State) : State := deliver s.spi.rx (s.setSpi { s.spi with done := false })

/-- SPI_XFER (41_spi.md R121). -/
def execSpiXfer (b : Byte) (s : State) : Result := runWaiting (.spiXfer b) (spiStart b) spiCollect s

/-- SPIE_COMPLETE for the byte being shifted out (41_spi.md R122). -/
def spieComplete (p : Params) (b : Byte) (s : State) : State :=
  let r := p.chain s.hist.busOut b
  (s.setHist { s.hist with busOut := s.hist.busOut ++ [b], busIn := s.hist.busIn ++ [r] }).setSpi
    { s.spi with rx := r, done := true, shiftOut := none }

/-- SPIE's step is enabled exactly when the unit is enabled and a byte is being shifted out (41_spi.md R122). -/
def spieEnabled (s : State) : Bool := s.spi.en && s.spi.shiftOut.isSome

/-- The engine's step where it is enabled. -/
def spieStep (p : Params) (s : State) : State :=
  if s.spi.en then
    match s.spi.shiftOut with
    | some b => spieComplete p b s
    | none => s
  else s

/-- ShiftChain(N, init): the reference chain of N stages (41_spi.md R131). `init` has N bytes, `init[0]` nearest MISO. -/
def shiftChain (n : Nat) (init : List Byte) (h : List Byte) (_b : Byte) : Byte :=
  if h.length + 1 ≤ n then init.getD h.length 0 else h.getD (h.length - n) 0

/-- NoChain: MISO is pulled up, so every bit reads 1 (41_spi.md R132). -/
def noChain (_h : List Byte) (_b : Byte) : Byte := 0xFF

end Sys2Proof.Machine
end

