-- ==== Sys2Proof/Machine/UartUnit.lean ====
section
/-! DEFINITION. The UART: UART_RECV (43_uart.md R186), UART_SEND (R187), the transmitter's steps (R188, R189) and a frame's
arrival (R182). -/

namespace Sys2Proof.Machine

/-- UART_RECV's piece after its `await`: remove the FIFO's head and return it (43_uart.md R186). -/
def uartTake (s : State) : State :=
  match s.uart.rxFifo with
  | d :: rest => deliver d (s.setUart { s.uart with rxFifo := rest })
  | [] => s

/-- UART_RECV (43_uart.md R186). -/
def execUartRecv (s : State) : Result := runWaiting .uartRecv (fun t => t) uartTake s

/-- UART_SEND's piece after its `await`: queue the byte (43_uart.md R187). -/
def uartQueue (b : Byte) (s : State) : State := s.setUart { s.uart with txBuf := some b }

/-- UART_SEND (43_uart.md R187). -/
def execUartSend (b : Byte) (s : State) : Result := runWaiting (.uartSend b) (fun t => t) (uartQueue b) s

/-- UTX_LOAD (43_uart.md R188). -/
def utxLoad (x : Byte) (s : State) : State := s.setUart { s.uart with txShift := some x, txBuf := none }

/-- UTX_DONE (43_uart.md R189). -/
def utxDone (x : Byte) (s : State) : State :=
  (s.setHist { s.hist with serialOut := s.hist.serialOut ++ [x] }).setUart { s.uart with txShift := none }

/-- UTX's load step is enabled (43_uart.md R188). -/
def utxLoadEnabled (s : State) : Bool := s.uart.txEn && s.uart.txShift.isNone && s.uart.txBuf.isSome

/-- UTX's completion step is enabled (43_uart.md R189). -/
def utxDoneEnabled (s : State) : Bool := s.uart.txShift.isSome

/-- UTX's step: the one of its two that is enabled, which are never both (43_uart.md R188, R189). -/
def utxStep (s : State) : State :=
  match s.uart.txShift with
  | some x => utxDone x s
  | none =>
    if s.uart.txEn then
      match s.uart.txBuf with
      | some x => utxLoad x s
      | none => s
    else s

/-- A frame's byte enters the FIFO, or is lost where the FIFO is full (43_uart.md R182, R183). -/
def rxAccept (p : Params) (d : Byte) (s : State) : State :=
  if s.uart.rxFifo.length = p.rxFifoDepth then raiseFault (.rxOverrun d) s
  else (s.setUart { s.uart with rxFifo := s.uart.rxFifo ++ [d] }).setHist { s.hist with serialIn := s.hist.serialIn ++ [d] }

/-- UP_FRAME with its draws (43_uart.md R182 to R185). -/
def upFrame (p : Params) (d : Byte) (ok : Bool) (s : State) : State :=
  if s.uart.rxEn then rxAccept p d (if ok then s else raiseFault (.rxFramingError d) s)
  else raiseFault (.rxWhileDisabled d) s

end Sys2Proof.Machine
end

