-- ==== Sys2Proof/Machine/Agents.lean ====
section
/-! DEFINITION. The steps of the agents other than the requester (10_state.md R22), and who moves next. -/

namespace Sys2Proof.Machine

/-- An agent's step without the record of its edges. A step that is not enabled changes nothing (entry 4). -/
def agentEffect (p : Params) (m : Move) (s : State) : State :=
  match m with
  | .req => s
  | .utx => utxStep s
  | .spie => spieStep p s
  | .lt => ltStep p s
  | .ft => ftStep p s
  | .up d ok => upFrame p d ok s

/-- The step of an agent other than the requester (10_state.md R22, R36). -/
def agentStep (p : Params) (m : Move) (s : State) : State := recordEdges s (agentEffect p m s)

/-- REQ has an enabled step: it is not halted and either has a line to issue or is held at an `await` whose condition holds
(60_exceptions.md R212, R226). -/
def reqEnabled (s : State) : Bool :=
  !halted s &&
    match s.req.op with
    | none => !s.req.queue.isEmpty
    | some { issued := .op i, stage := 1 } => awaitHolds i s
    | some _ => false

/-- Whether the agent has an enabled step (10_state.md R22). UP always has one. -/
def moveEnabled (m : Move) (s : State) : Bool :=
  match m with
  | .req => reqEnabled s
  | .utx => utxLoadEnabled s || utxDoneEnabled s
  | .spie => spieEnabled s
  | .lt => s.lt.run
  | .ft => s.ft.run
  | .up _ _ => true

/-- Who moves next: the first of the state's own choices, else a free choice (entry 3). -/
def nextMove (s : State) : Move :=
  match s.sched with
  | m :: _ => m
  | [] => Config.freeMove s.clock

/-- The state once that choice is used up. -/
def useChoice (s : State) : State :=
  match s.sched with
  | _ :: rest => s.setSched rest
  | [] => s.setClock (s.clock + 1)

end Sys2Proof.Machine
end

