-- ==== Sys2Proof/Machine/Setup.lean ====
section
/-! DEFINITION. The setup operations (40_init.md R101 to R104). The latch timer has none (R105). -/

namespace Sys2Proof.Machine

/-- PIN_INIT's direction bits (40_init.md R101). -/
def initDdr : PinBits :=
  { rxd := false, txd := true, sck := true, mosi := true, ss := true, miso := false, latch := true, flicker := true }

/-- PIN_INIT's writes: all direction bits, the port bits of TXD, RXD and MISO, and `ready` (40_init.md R101). -/
def pinInit (s : State) : State :=
  s.setPins
    { ddr := initDdr
      port := { s.pins.port with txd := true, rxd := true, miso := true }
      ready := true }

/-- UART_INIT's writes (40_init.md R102). -/
def uartInit (s : State) : State := s.setUart { s.uart with rxEn := true, txEn := true, configured := true }

/-- SPI_INIT's writes (40_init.md R103). -/
def spiInit (s : State) : State := s.setSpi { s.spi with en := true, done := false }

/-- FLICKER_START's writes (40_init.md R104). -/
def flickerStart (p : Params) (s : State) : State :=
  s.setFt { s.ft with cnt := 0, cmp := p.flickerCmp, oc := false, connected := true, run := true }

/-- PIN_INIT (40_init.md R101). -/
def execPinInit (s : State) : Result := runAtOnce .pinInit pinInit s

/-- UART_INIT (40_init.md R102). -/
def execUartInit (s : State) : Result := runAtOnce .uartInit uartInit s

/-- SPI_INIT (40_init.md R103). -/
def execSpiInit (s : State) : Result := runAtOnce .spiInit spiInit s

/-- FLICKER_START for given parameters (40_init.md R104, 00_scope.md R7). -/
def runFlickerStart (p : Params) (s : State) : Result := runAtOnce .flickerStart (flickerStart p) s

/-- FLICKER_START (40_init.md R104). -/
def execFlickerStart (s : State) : Result := runFlickerStart Config.params s

end Sys2Proof.Machine
end

