-- ==== Sys2Proof/Machine/Dispatch.lean ====
section
/-! DEFINITION. One arm per operation (30_encoding.md R81). `exec i s` is the requester's step for operation `i`: its start, or,
with `i` held at its `await`, what follows. -/

namespace Sys2Proof.Machine

def exec (i : Instr) (s : State) : Host.Outcome State Fault Refusal :=
  match i with
  | .pinInit => Sys2Proof.Machine.execPinInit s
  | .uartInit => Sys2Proof.Machine.execUartInit s
  | .spiInit => Sys2Proof.Machine.execSpiInit s
  | .flickerStart => Sys2Proof.Machine.execFlickerStart s
  | .spiXfer b => Sys2Proof.Machine.execSpiXfer b s
  | .latchWaitLow => Sys2Proof.Machine.execLatchWaitLow s
  | .latchDisconnect => Sys2Proof.Machine.execLatchDisconnect s
  | .latchTimerStop => Sys2Proof.Machine.execLatchTimerStop s
  | .latchDriveHigh => Sys2Proof.Machine.execLatchDriveHigh s
  | .latchArm => Sys2Proof.Machine.execLatchArm s
  | .latchRead => Sys2Proof.Machine.execLatchRead s
  | .uartRecv => Sys2Proof.Machine.execUartRecv s
  | .uartSend b => Sys2Proof.Machine.execUartSend b s

end Sys2Proof.Machine
end

