-- ==== Sys2Proof/WellFormed.lean ====
section
/-! DEFINITION. Which lines the assembler accepts (30_encoding.md R87). Every `Instr` is well formed as it stands: each of the
13 operations with each byte operand is legal (R82). Which raw WORDS are legal is the decoder's question (R83). -/

namespace Sys2Proof

/-- The operations that take a byte operand (30_encoding.md R80: SPI_XFER and UART_SEND). -/
def OpName.takesByte : OpName → Bool
  | .spiXfer | .uartSend => true
  | _ => false

/-- The operations that have a result (30_encoding.md R81): SPI_XFER, LATCH_READ, UART_RECV. -/
def OpName.hasResult : OpName → Bool
  | .spiXfer | .latchRead | .uartRecv => true
  | _ => false

/-- Whether `#` may stand on the line: on SPI_XFER and UART_SEND only (30_encoding.md R87). -/
def Mnemonic.takesByte : Mnemonic → Bool
  | .op o => o.takesByte
  | _ => false

/-- Whether `->` may stand on the line: on an operation with a result only (30_encoding.md R87). -/
def Mnemonic.hasResult : Mnemonic → Bool
  | .op o => o.hasResult
  | _ => false

/-- R87: `#` stands on SPI_XFER and UART_SEND and nowhere else. That it must stand there is a DESIGN CHOICE, safe
(entry 24): the spec says it gives imm8 and gives no default. -/
def Line.immOk (l : Line) : Bool := l.imm.isSome == l.mnemonic.takesByte

/-- R87: `-> x[i]` stands only on an operation with a result. -/
def Line.dstOk (l : Line) : Bool := !l.dst.isSome || l.mnemonic.hasResult

/-- The lines the assembler accepts. -/
def Line.wf (l : Line) : Bool := l.immOk && l.dstOk

end Sys2Proof
end

