-- ==== Sys2Proof/Decode.lean ====
section
/-! DEFINITION. The decoder (30_encoding.md R80 to R85), total on every 16-bit word; after it the encoder, from the same table;
and the assembler of R87 with the pseudo-operations' expansions (R88 to R90). -/

namespace Sys2Proof

/-- The `op` field, bits 15:8 (30_encoding.md R80). -/
def opByte (w : Word) : Byte := w.extractLsb' 8 8

/-- The `imm8` field, bits 7:0 (30_encoding.md R80). -/
def immByte (w : Word) : Byte := w.extractLsb' 0 8

/-- Why a word is illegal, in the order the checks run (30_encoding.md R83, 60_exceptions.md R213). Either way the fault
recorded is IllegalOperation. -/
inductive DecodeError where
  /-- `op` is none of the 13 codes. -/
  | unknownOp
  /-- `imm8` is not 0 on an operation without operand. -/
  | immNotZero
deriving DecidableEq, Repr

/-- The operation map (30_encoding.md R81). -/
def opOfCode (c : Byte) : Option OpName :=
  match c with
  | 0x01#8 => some .pinInit
  | 0x02#8 => some .uartInit
  | 0x03#8 => some .spiInit
  | 0x04#8 => some .flickerStart
  | 0x10#8 => some .spiXfer
  | 0x20#8 => some .latchWaitLow
  | 0x21#8 => some .latchDisconnect
  | 0x22#8 => some .latchTimerStop
  | 0x23#8 => some .latchDriveHigh
  | 0x24#8 => some .latchArm
  | 0x25#8 => some .latchRead
  | 0x30#8 => some .uartRecv
  | 0x31#8 => some .uartSend
  | _ => none

/-- The operation of that name; the operand goes to the two that take one (30_encoding.md R82: used as is). -/
def instrOf (o : OpName) (imm : Byte) : Instr :=
  match o with
  | .pinInit => .pinInit
  | .uartInit => .uartInit
  | .spiInit => .spiInit
  | .flickerStart => .flickerStart
  | .spiXfer => .spiXfer imm
  | .latchWaitLow => .latchWaitLow
  | .latchDisconnect => .latchDisconnect
  | .latchTimerStop => .latchTimerStop
  | .latchDriveHigh => .latchDriveHigh
  | .latchArm => .latchArm
  | .latchRead => .latchRead
  | .uartRecv => .uartRecv
  | .uartSend => .uartSend imm

/-- `decode(w)` with its checks in their order (30_encoding.md R83). -/
def decode (w : Word) : Except DecodeError Instr :=
  match opOfCode (opByte w) with
  | none => .error .unknownOp
  | some o =>
    if !o.takesByte && immByte w != 0 then .error .immNotZero
    else .ok (instrOf o (immByte w))

/-- The operation code (30_encoding.md R81). -/
def codeOf (o : OpName) : Byte :=
  match o with
  | .pinInit => 0x01
  | .uartInit => 0x02
  | .spiInit => 0x03
  | .flickerStart => 0x04
  | .spiXfer => 0x10
  | .latchWaitLow => 0x20
  | .latchDisconnect => 0x21
  | .latchTimerStop => 0x22
  | .latchDriveHigh => 0x23
  | .latchArm => 0x24
  | .latchRead => 0x25
  | .uartRecv => 0x30
  | .uartSend => 0x31

/-- The operation word `{op8, imm8}` (30_encoding.md R80). -/
def encode (i : Instr) : Word := codeOf i.name ++ i.imm

/-- The instruction the decoder reads from a table row's bits. One word is the whole instruction, and its bit 0 is the table's
bit 0; bits above `nbits` are 0. -/
def decodeTableWord (nbits w : Nat) : Option Instr :=
  (decode (BitVec.ofNat 16 (w % 2 ^ nbits))).toOption

/-- LATCH_TRIGGER's five words in their order (30_encoding.md R88). -/
def latchTriggerWords : List Word := [0x2000, 0x2100, 0x2200, 0x2300, 0x2400]

/-- BOOT's four words in their order (30_encoding.md R89). -/
def bootWords : List Word := [0x0100, 0x0200, 0x0300, 0x0400]

/-- ACK's word, UART_SEND of 0xFF (30_encoding.md R90). -/
def ackWords : List Word := [0x31FF]

/-- The words of a well-formed line (30_encoding.md R87 to R90). -/
def lineWords (l : Line) : List Word :=
  match l.mnemonic with
  | .op o => [encode (instrOf o (l.imm.getD 0))]
  | .latchTrigger => latchTriggerWords
  | .boot => bootWords
  | .ack => ackWords

/-- Why a text line is refused (30_encoding.md R87). -/
inductive AsmError where
  /-- The line's first word is no mnemonic. -/
  | unknownMnemonic
  /-- What follows the mnemonic is not `#byte` and `-> xindex`. -/
  | badOperand
  /-- `#` or `->` stands where R87 does not allow it, or `#` is missing. -/
  | illFormed
deriving DecidableEq, Repr

/-- The mnemonics' spellings (30_encoding.md R81, R88 to R90). -/
def mnemonicTable : List (List Char × Mnemonic) :=
  [("PIN_INIT".toList, .op .pinInit),
   ("UART_INIT".toList, .op .uartInit),
   ("SPI_INIT".toList, .op .spiInit),
   ("FLICKER_START".toList, .op .flickerStart),
   ("SPI_XFER".toList, .op .spiXfer),
   ("LATCH_WAIT_LOW".toList, .op .latchWaitLow),
   ("LATCH_DISCONNECT".toList, .op .latchDisconnect),
   ("LATCH_TIMER_STOP".toList, .op .latchTimerStop),
   ("LATCH_DRIVE_HIGH".toList, .op .latchDriveHigh),
   ("LATCH_ARM".toList, .op .latchArm),
   ("LATCH_READ".toList, .op .latchRead),
   ("UART_RECV".toList, .op .uartRecv),
   ("UART_SEND".toList, .op .uartSend),
   ("LATCH_TRIGGER".toList, .latchTrigger),
   ("BOOT".toList, .boot),
   ("ACK".toList, .ack)]

/-- The value of a digit character; 16 for any other character. -/
def digitValue (c : Char) : Nat :=
  if '0'.toNat ≤ c.toNat ∧ c.toNat ≤ '9'.toNat then c.toNat - '0'.toNat
  else if 'a'.toNat ≤ c.toNat ∧ c.toNat ≤ 'f'.toNat then c.toNat - 'a'.toNat + 10
  else if 'A'.toNat ≤ c.toNat ∧ c.toNat ≤ 'F'.toNat then c.toNat - 'A'.toNat + 10
  else 16

/-- A run of digits of the given base, at least one. -/
def parseDigits (base : Nat) (cs : List Char) : Option Nat :=
  if cs.isEmpty || cs.any (fun c => base ≤ digitValue c) then none
  else some (cs.foldl (fun n c => n * base + digitValue c) 0)

/-- `byte := "0x" hex hex | "0b" bit x 8 | decimal 0..255` (30_encoding.md R87). R87 does not say how a decimal is spelt. DESIGN
CHOICE, safe (entry 24): one or more decimal digits, leading zeros included, whose value is at most 255. -/
def parseByte (cs : List Char) : Option Byte :=
  match cs with
  | '0' :: 'x' :: ds => if ds.length = 2 then (parseDigits 16 ds).map (BitVec.ofNat 8) else none
  | '0' :: 'b' :: ds => if ds.length = 8 then (parseDigits 2 ds).map (BitVec.ofNat 8) else none
  | ds =>
    match parseDigits 10 ds with
    | some n => if n ≤ 255 then some (BitVec.ofNat 8 n) else none
    | none => none

/-- The text before a `;` comment (30_encoding.md R87). -/
def stripComment (cs : List Char) : List Char := cs.takeWhile (· != ';')

/-- The text after a leading `label:` (30_encoding.md R87). R87 gives a label no form. DESIGN CHOICE, safe (entry 24): whatever
stands before the line's first colon is the label, blanks and all, and is dropped. -/
def stripLabel (cs : List Char) : List Char :=
  match cs.dropWhile (· != ':') with
  | [] => cs
  | _ :: rest => rest

/-- The blank-separated tokens of a text; `cur` is the token being read, reversed. -/
def tokensFrom (cs cur : List Char) : List (List Char) :=
  match cs with
  | [] => if cur.isEmpty then [] else [cur.reverse]
  | c :: rest =>
    if c == ' ' || c == '\t' then
      if cur.isEmpty then tokensFrom rest [] else cur.reverse :: tokensFrom rest []
    else tokensFrom rest (c :: cur)

/-- The `index` of a result destination, after its `x`. R87 leaves `index` undefined and the spec writes both `x0` and `x[0]`
(95_test_vectors.md U-7, 41_spi.md R121). DESIGN CHOICE, safe (entry 24): decimal digits, leading zeros included, bare or in square
brackets. -/
def parseIndex (cs : List Char) : Option Nat :=
  match cs with
  | '[' :: rest => if rest.getLast? = some ']' then parseDigits 10 rest.dropLast else none
  | _ => parseDigits 10 cs

/-- The tokens after the `#` part: nothing, or `->` and `x` with an index (30_encoding.md R87). -/
def parseDst (ts : List (List Char)) : Option (Option Nat) :=
  match ts with
  | [] => some none
  | [['-', '>'], 'x' :: index] => (parseIndex index).map some
  | _ => none

/-- The tokens after the mnemonic (30_encoding.md R87). -/
def parseOperands (ts : List (List Char)) : Option (Option Byte × Option Nat) :=
  match ts with
  | ('#' :: ds) :: rest =>
    match parseByte ds, parseDst rest with
    | some b, some dst => some (some b, dst)
    | _, _ => none
  | _ => (parseDst ts).map (fun dst => (none, dst))

/-- Reads one text line (30_encoding.md R87). R87's line has a mnemonic, and it is silent on a line without one. DESIGN CHOICE,
safe (entry 24): such a line (empty, blank, a comment or a label alone) is accepted, as `none`, and assembles to no words. -/
def parseLine (cs : List Char) : Except AsmError (Option Line) :=
  match tokensFrom (stripLabel (stripComment cs)) [] with
  | [] => .ok none
  | t :: ts =>
    match mnemonicTable.find? (fun row => row.1 == t) with
    | none => .error .unknownMnemonic
    | some (_, m) =>
      match parseOperands ts with
      | none => .error .badOperand
      | some (imm, dst) =>
        let l : Line := { mnemonic := m, imm := imm, dst := dst }
        if l.wf then .ok (some l) else .error .illFormed

/-- Assembles one text line to its words (30_encoding.md R87 to R90). -/
def assembleLine (cs : List Char) : Except AsmError (List Word) :=
  match parseLine cs with
  | .error e => .error e
  | .ok none => .ok []
  | .ok (some l) => .ok (lineWords l)

end Sys2Proof
end

