-- ==== Sys2Proof/Machine/Fetch.lean ====
section
/-! DEFINITION. What the requester does when it moves: the operation in progress, else the next line of its program
(10_state.md R21, R41). -/

namespace Sys2Proof.Machine

/-- What the requester's move comes to. -/
inductive ReqAction where
  /-- No step: halted, or no line to issue. -/
  | rest
  /-- The operation `i` runs from state `s`. -/
  | run (i : Instr) (s : State)
  /-- The word `w` is no operation. -/
  | illegal (w : Word) (s : State)
deriving DecidableEq, Repr

/-- The state once the requester has taken the line up: the line leaves the queue and its destination is the one results go to
(30_encoding.md R86). -/
def takeLine (r : Request) (rest : List Request) (s : State) : State :=
  s.setReq { s.req with queue := rest, dst := r.dst }

/-- The requester's next action (10_state.md R41, 30_encoding.md R83). -/
def reqAction (s : State) : ReqAction :=
  if halted s then .rest
  else
    match s.req.op with
    | some { issued := .op i, stage := _ } => .run i s
    | some { issued := .illegal _, stage := _ } => .rest
    | none =>
      match s.req.queue with
      | [] => .rest
      | r :: rest =>
        match decode r.word with
        | .ok i => .run i (takeLine r rest s)
        | .error _ => .illegal r.word (takeLine r rest s)

/-- Decoding an illegal word raises IllegalOperation (30_encoding.md R83, R84; 60_exceptions.md R212). -/
def raiseIllegal (w : Word) (s : State) : State := raiseReqFault (.illegalOperation w) (.illegal w) s

end Sys2Proof.Machine
end

