-- ==== Sys2Proof/Machine/Parametric.lean ====
section
/-! DEFINITION. The machine for any parameters (00_scope.md R7: a model takes them as arguments): an operation, the requester's
move, and the move of any agent. -/

namespace Sys2Proof.Machine

/-- The requester's step for operation `i`, for given parameters. Only FLICKER_START and LATCH_ARM read one (40_init.md R104,
42_latch_flicker.md R145). -/
def execWith (p : Params) (i : Instr) (s : State) : Result :=
  match i with
  | .pinInit => exec .pinInit s
  | .uartInit => exec .uartInit s
  | .spiInit => exec .spiInit s
  | .flickerStart => runFlickerStart p s
  | .spiXfer b => exec (.spiXfer b) s
  | .latchWaitLow => exec .latchWaitLow s
  | .latchDisconnect => exec .latchDisconnect s
  | .latchTimerStop => exec .latchTimerStop s
  | .latchDriveHigh => exec .latchDriveHigh s
  | .latchArm => runLatchArm p s
  | .latchRead => exec .latchRead s
  | .uartRecv => exec .uartRecv s
  | .uartSend b => exec (.uartSend b) s

/-- The requester's move (10_state.md R41). -/
def reqStep (p : Params) (s : State) : Result :=
  match reqAction s with
  | .rest => .next s
  | .run i t => execWith p i t
  | .illegal w t => .next (raiseIllegal w t)

/-- The move of the given agent (10_state.md R22). -/
def takeMove (p : Params) (m : Move) (s : State) : Result :=
  match m with
  | .req => reqStep p s
  | other => .next (agentStep p other s)

end Sys2Proof.Machine
end

