-- ==== Sys2Proof/Machine/Step.lean ====
section
/-! DEFINITION. One step of the machine: one agent's move (10_state.md R22). -/

namespace Sys2Proof.Machine

/-- One step for given parameters: the agent whose turn it is moves (00_scope.md R7, entry 3). -/
def stepWith (p : Params) (s : State) : Result := takeMove p (nextMove s) (useChoice s)

/-- One step, with the spec's default for every parameter that has one (entry 10). -/
def step (s : State) : Host.Outcome State Fault Refusal := stepWith Config.params s

/-- `s` with the word as the requester's next line and the requester's turn next; what would keep the requester from taking it
up (an operation in progress, a fault it has raised) is taken away (entry 23). -/
def State.withFetchWord (s : State) (nbits w : Nat) : State :=
  { s with
    req := { s.req with
      op := none
      queue := { word := BitVec.ofNat 16 (w % 2 ^ nbits), dst := none } :: s.req.queue }
    faults := s.faults.filter (fun f => !raisedByReq f)
    sched := .req :: s.sched }

end Sys2Proof.Machine
end

