-- ==== Sys2Proof/Machine/Waveform.lean ====
section
/-! DEFINITION. The line waveforms the spec describes beside its byte-level rules: the UART frame (43_uart.md R180) and the SPI
clock cycles (41_spi.md R123, 20_memory.md R61). No step of the byte-level machine reads them (00_scope.md R8). -/

namespace Sys2Proof.Machine

/-- The 10 bit cells of a UART frame: start 0, the data bits least significant first, the stop bit (43_uart.md R180). -/
def uartFrame (d : Byte) (stop : Bool) : List Bool :=
  false :: ((List.range 8).map d.getLsbD ++ [stop])

/-- Bits, least significant first, as a byte. -/
def byteOfBits (bs : List Bool) : Byte :=
  bs.foldr (fun b n => n <<< 1 ||| (if b then 1 else 0)) 0

/-- What a receiver reads from 10 bit cells: the data byte and the stop bit; nothing without a start bit. -/
def uartSample (cells : List Bool) : Option (Byte × Bool) :=
  match cells with
  | false :: rest => if rest.length = 9 then some (byteOfBits (rest.take 8), rest.getD 8 true) else none
  | _ => none

/-- The bits of a byte in the order they are shifted (20_memory.md R61). -/
def spiBits (o : BitOrder) (b : Byte) : List Bool :=
  match o with
  | .lsbFirst => (List.range 8).map b.getLsbD
  | .msbFirst => (List.range 8).map b.getMsbD

/-- The byte that bits shifted in, in that order, make (20_memory.md R61). -/
def spiByte (o : BitOrder) (bs : List Bool) : Byte :=
  match o with
  | .lsbFirst => byteOfBits bs
  | .msbFirst => byteOfBits bs.reverse

/-- A transfer's half cycles as (SCK, MOSI): at each leading edge SCK leaves its idle level and the bit is set up, at the
trailing edge it returns and MISO is sampled (41_spi.md R123). -/
def spiWave (cpol : Bool) (o : BitOrder) (b : Byte) : List (Bool × Bool) :=
  (spiBits o b).flatMap (fun bit => [(!cpol, bit), (cpol, bit)])

end Sys2Proof.Machine
end

