-- ==== Sys2Proof/Safety.lean ====
section
/-! DEFINITION. The terms the statements use: when the requester can start, invariants of the state, runs with their fairness
premises (60_exceptions.md R226), and the byte streams through the UART and the SPI. -/

namespace Sys2Proof.Machine

/-- The requester can start an operation: it is not halted and none is in progress (10_state.md R41, 60_exceptions.md R212). -/
abbrev Idle (s : State) : Prop := halted s = false ∧ s.req.op = none

/-- The requester is held at operation `i`'s `await` and not halted (00_scope.md R11, 10_state.md R41). -/
abbrev HeldAt (i : Instr) (s : State) : Prop := halted s = false ∧ s.req.op = some { issued := .op i, stage := 1 }

/-- Every interrupt enable is 0 (10_state.md R39). -/
abbrev EnablesZero (s : State) : Prop :=
  s.uart.rxcIe = false ∧ s.uart.udreIe = false ∧ s.spi.ie = false ∧ s.lt.ie = false ∧ s.ft.ie = false

/-- Each counter and compare value fits its width (10_state.md R33, R35). -/
structure CountersFit (p : Params) (s : State) : Prop where
  ltCnt : s.lt.cnt < 2 ^ p.ltWidth
  ltCmp : s.lt.cmp < 2 ^ p.ltWidth
  ftCnt : s.ft.cnt < 2 ^ p.ftWidth
  ftCmp : s.ft.cmp < 2 ^ p.ftWidth

/-- The compare values take no value but 0, before they are written, and their parameter (10_state.md R38), a running counter
compares with its parameter, and a counter that is cleared on compare has not passed its compare value: the flicker counter
(42_latch_flicker.md R170), and the latch counter in CTC mode (R162). -/
structure ComparesFixed (p : Params) (s : State) : Prop where
  ltCmp : s.lt.cmp = 0 ∨ s.lt.cmp = p.latchCmp
  ftCmp : s.ft.cmp = 0 ∨ s.ft.cmp = p.flickerCmp
  ltRun : s.lt.run = true → s.lt.cmp = p.latchCmp
  ftRun : s.ft.run = true → s.ft.cmp = p.flickerCmp
  ltCnt : p.latchMode = .ctc → s.lt.cnt ≤ s.lt.cmp
  ftCnt : s.ft.cnt ≤ s.ft.cmp

/-- What the requester's `req.op` may be (10_state.md R41, 60_exceptions.md R212): none, with the requester not halted; stage 0
of a faulted operation, with the requester halted; or a waiting operation held at its one `await`, its setup done. -/
def ReqShape (s : State) : Prop :=
  match s.req.op with
  | none => halted s = false
  | some c =>
    (c.stage = 0 ∧ halted s = true) ∨
      (halted s = false ∧ ∃ i, c = { issued := .op i, stage := 1 } ∧ waits i = true ∧ precheck i s = none)

/-- What setup has done and what it has not (40_init.md R100 to R104, 10_state.md R25, R38). -/
structure SetupShape (s : State) : Prop where
  /-- Before PIN_INIT every line is an input without pull-up and every unit is off (10_state.md R51). -/
  before : s.pins.ready = false →
    s.pins.ddr = PinBits.zero ∧ s.pins.port = PinBits.zero ∧ s.uart.configured = false ∧ s.spi.en = false ∧
      s.lt.run = false ∧ s.lt.connected = false ∧ s.ft.run = false
  /-- After it the directions are PIN_INIT's for good, and the levels of every line but LATCH too (40_init.md R101). -/
  after : s.pins.ready = true →
    s.pins.ddr = initDdr ∧ s.pins.port.txd = true ∧ s.pins.port.rxd = true ∧ s.pins.port.miso = true ∧
      s.pins.port.sck = false ∧ s.pins.port.mosi = false ∧ s.pins.port.ss = false ∧ s.pins.port.flicker = false
  /-- UART_INIT enables both directions together (40_init.md R102). -/
  uartOn : s.uart.rxEn = s.uart.configured ∧ s.uart.txEn = s.uart.configured
  /-- Before UART_INIT the UART holds nothing. -/
  uartOff : s.uart.configured = false → s.uart.rxFifo = [] ∧ s.uart.txBuf = none ∧ s.uart.txShift = none
  /-- Before SPI_INIT no transfer is in progress or complete. -/
  spiOff : s.spi.en = false → s.spi.shiftOut = none ∧ s.spi.done = false
  /-- FLICKER_START connects and runs the flicker timer together (40_init.md R104). -/
  flicker : s.ft.connected = s.ft.run

/-- The SPI transfer in progress is the requester's own SPI_XFER: its byte is being shifted out, or the transfer is complete with
the byte and its answer last in the histories (41_spi.md R121, R122). -/
structure SpiProtocol (s : State) : Prop where
  shifting : ∀ b, s.spi.shiftOut = some b →
    s.req.op = some { issued := .op (.spiXfer b), stage := 1 } ∧ s.spi.done = false
  complete : s.spi.done = true →
    s.spi.shiftOut = none ∧
      ∃ b, s.req.op = some { issued := .op (.spiXfer b), stage := 1 } ∧
        s.hist.busOut.getLast? = some b ∧ s.hist.busIn.getLast? = some s.spi.rx
  held : ∀ b, s.req.op = some { issued := .op (.spiXfer b), stage := 1 } →
    s.spi.shiftOut = some b ∨ s.spi.done = true

/-- The books: the FIFO within its depth and holding the latest accepted bytes in order (10_state.md R27, R29), one answer a
byte sent (R32), the fault records without repeats (R50), the requester's variables in canonical form (entry 8). -/
structure BooksKept (p : Params) (s : State) : Prop where
  fifoDepth : s.uart.rxFifo.length ≤ p.rxFifoDepth
  fifoOrder : s.uart.rxFifo <:+ s.hist.serialIn
  busPairs  : s.hist.busIn.length = s.hist.busOut.length
  faultsSet : s.faults.Nodup
  vars      : varsWf s.req.x = true

/-- The level the latest edge on a line went to; Z, the level at power-on, where there is none (10_state.md R36, R51). -/
def lastLevel (edges : List Edge) (p : Pin) : Level :=
  match (edges.filter (fun e => e.line = p)).getLast? with
  | some e => e.level
  | none => .z

/-- `hist.edges` tells the level of the two timed lines (10_state.md R36). -/
abbrev EdgesTell (s : State) : Prop :=
  lastLevel s.hist.edges .latch = level s .latch ∧ lastLevel s.hist.edges .flicker = level s .flicker

/-- The bytes queued for transmission so far, sent or not, in order (43_uart.md R187 to R189). -/
def txStream (s : State) : List Byte := s.hist.serialOut ++ (s.uart.txShift.toList ++ s.uart.txBuf.toList)

/-- The bytes handed to the bus so far, transferred or in transfer, in order (41_spi.md R133). -/
def busStream (s : State) : List Byte := s.hist.busOut ++ s.spi.shiftOut.toList

/-- `s` after the given agents' moves in turn; it stops at the first answer that is no next state. -/
def runMoves (p : Params) (ms : List Move) (s : State) : Result :=
  match ms with
  | [] => .next s
  | m :: rest =>
    match takeMove p m s with
    | .next t => runMoves p rest t
    | .fault f => .fault f
    | .refused r => .refused r

/-- `n` ticks of a latch timer (42_latch_flicker.md R160). -/
def latchTicks (p : Params) (n : Nat) (t : Timer) : Timer :=
  match n with
  | 0 => t
  | k + 1 => latchTick p (latchTicks p k t)

/-- `n` ticks of a flicker timer (42_latch_flicker.md R170). -/
def flickerTicks (p : Params) (n : Nat) (t : Timer) : Timer :=
  match n with
  | 0 => t
  | k + 1 => flickerTick p (flickerTicks p k t)

/-- One SPI transfer seen from the bus: the byte is handed over and the engine completes it (41_spi.md R121, R122). -/
def busTransfer (p : Params) (s : State) (b : Byte) : State := agentStep p .spie (spiStart b s)

/-- An endless run for given parameters: the states and the moves between them (10_state.md R22, 70_reset_and_hazards.md R263). -/
structure Execution (p : Params) where
  states : Nat → State
  moves  : Nat → Move
  ok     : ∀ n, takeMove p (moves n) (states n) = .next (states (n + 1))

/-- An agent takes its step whenever that stays enabled (60_exceptions.md R226): weak fairness, where a step is owed only if it
is enabled in every state from some point on. -/
def Execution.Fair {p : Params} (e : Execution p) (m : Move) : Prop :=
  ∀ n, (∀ k, n ≤ k → moveEnabled m (e.states k) = true) → ∃ k, n ≤ k ∧ e.moves k = m

/-- `fair_spi` (60_exceptions.md R226). -/
def Execution.FairSpi {p : Params} (e : Execution p) : Prop := e.Fair .spie

/-- `fair_tx` (60_exceptions.md R226), of UTX's one move, which takes whichever of its two steps is enabled (entry 22). -/
def Execution.FairTx {p : Params} (e : Execution p) : Prop := e.Fair .utx

/-- `fair_timers` (60_exceptions.md R226). R226 says that LT and FT tick `whenever` their run bit is 1, where the other three say
`whenever it stays enabled`. DESIGN CHOICE, safe (entry 26): weak fairness here too, so a tick is owed only if the run bit stays
1 from some point on, and a timer that is armed and stopped again and again may never tick. -/
def Execution.FairTimers {p : Params} (e : Execution p) : Prop := e.Fair .lt ∧ e.Fair .ft

/-- `fair_req` (60_exceptions.md R226). -/
def Execution.FairReq {p : Params} (e : Execution p) : Prop := e.Fair .req

end Sys2Proof.Machine
end

