-- ==== Sys2Proof/Certificates/Slice0/Obligations.lean ====
section
/-! DEFINITION. The statements for the provers, from the spec's numbered rules. `p` stands for any parameters (00_scope.md
R7): `execWith p`, `takeMove p` and `stepWith p` are the machine for them. `exec` and `step` are the case of the machine's own,
whose OPEN ones are free (StepRunsDecodedOperation says so). -/

open Sys2Proof Sys2Proof.Machine

/-! ### Encoding -/

/-- 30_encoding.md R80 to R83: decoding an operation's word gives the operation back, with every operand. -/
def Obligations.DecodeOfEncode : Prop := ∀ i : Instr, decode (encode i) = .ok i

/-- 30_encoding.md R83, R84: a word the decoder accepts is the word of the operation it reads, so no two words mean one
operation and no bit is ignored. -/
def Obligations.EncodeOfDecode : Prop := ∀ (w : Word) (i : Instr), decode w = .ok i → encode i = w

/-- 30_encoding.md R83: the checks of `decode` in their order, with the fields as quotient and remainder by 256. -/
def Obligations.DecodeChecksInOrder : Prop :=
  let codes : List Nat := [0x01, 0x02, 0x03, 0x04, 0x10, 0x20, 0x21, 0x22, 0x23, 0x24, 0x25, 0x30, 0x31]
  ∀ w : Word,
    (w.toNat / 256 ∉ codes → decode w = .error .unknownOp) ∧
    (w.toNat / 256 ∈ codes → w.toNat / 256 ∉ [0x10, 0x31] → w.toNat % 256 ≠ 0 → decode w = .error .immNotZero) ∧
    (w.toNat / 256 ∈ codes → (w.toNat / 256 ∈ [0x10, 0x31] ∨ w.toNat % 256 = 0) →
      ∃ i, decode w = .ok i ∧ (codeOf i.name).toNat = w.toNat / 256 ∧ i.imm.toNat = w.toNat % 256)

/-- 30_encoding.md R81, R83: words written out from the operation map, family after family, and words that are none; R88 to R90:
each pseudo-operation's words decode to the operations it stands for, in their order. -/
def Obligations.SampleWordsDecode : Prop :=
  decode 0b0000000100000000#16 = .ok .pinInit ∧
  decode 0b0000001000000000#16 = .ok .uartInit ∧
  decode 0b0001000001010101#16 = .ok (.spiXfer 0x55) ∧
  decode 0b0010000000000000#16 = .ok .latchWaitLow ∧
  decode 0b0010010000000000#16 = .ok .latchArm ∧
  decode 0b0011000000000000#16 = .ok .uartRecv ∧
  decode 0b0011000111111111#16 = .ok (.uartSend 0xFF) ∧
  decode 0b0010010010000000#16 = .error .immNotZero ∧
  decode 0b0000010100000000#16 = .error .unknownOp ∧
  latchTriggerWords.map decode =
    [.ok .latchWaitLow, .ok .latchDisconnect, .ok .latchTimerStop, .ok .latchDriveHigh, .ok .latchArm] ∧
  bootWords.map decode = [.ok .pinInit, .ok .uartInit, .ok .spiInit, .ok .flickerStart] ∧
  ackWords.map decode = [.ok (.uartSend 0xFF)]

/-! ### Reset -/

/-- 10_state.md R51: the table of reset values. `spi.rx` is unspecified there and left out here. -/
def Obligations.ResetValues : Prop :=
  let r := State.reset
  (∀ p : Pin, pinBit r.pins.ddr p = false ∧ pinBit r.pins.port p = false ∧ level r p = .z) ∧
  r.pins.ready = false ∧
  r.uart.rxEn = false ∧ r.uart.txEn = false ∧ r.uart.configured = false ∧
  r.uart.rxFifo = [] ∧ r.uart.txBuf = none ∧ r.uart.txShift = none ∧
  r.spi.en = false ∧ r.spi.done = false ∧ r.spi.shiftOut = none ∧
  r.lt.run = false ∧ r.lt.connected = false ∧ r.lt.oc = false ∧ r.lt.cnt = 0 ∧ r.lt.cmp = 0 ∧
  r.ft.run = false ∧ r.ft.connected = false ∧ r.ft.oc = false ∧ r.ft.cnt = 0 ∧ r.ft.cmp = 0 ∧
  (∀ q : IrqSource, irqEnable r q = false) ∧
  r.hist.serialIn = [] ∧ r.hist.serialOut = [] ∧ r.hist.busOut = [] ∧ r.hist.busIn = [] ∧ r.hist.edges = [] ∧
  r.faults = [] ∧ r.req.op = none

/-- The invariants below hold at power-on (10_state.md R51). -/
def Obligations.ResetMeetsInvariants : Prop :=
  EnablesZero State.reset ∧ (∀ p : Params, p.Legal → CountersFit p State.reset) ∧ (∀ p : Params, ComparesFixed p State.reset) ∧
  ReqShape State.reset ∧ SetupShape State.reset ∧ SpiProtocol State.reset ∧ (∀ p : Params, BooksKept p State.reset) ∧
  EdgesTell State.reset

/-- 70_reset_and_hazards.md R241: until PIN_INIT has run no hardware agent but UP has an enabled step, and the frame UP then
delivers is lost with RxWhileDisabled recorded. -/
def Obligations.BeforePinInitOnlyUpSteps : Prop :=
  ∀ s : State, SetupShape s → s.pins.ready = false →
    (∀ m : Move, m ≠ .req → moveEnabled m s = true → ∃ d ok, m = .up d ok) ∧
    (∀ (p : Params) (d : Byte) (ok : Bool), moveEnabled (.up d ok) s = true ∧
      agentStep p (.up d ok) s =
        { s with faults := if .rxWhileDisabled d ∈ s.faults then s.faults else s.faults ++ [.rxWhileDisabled d] })

/-! ### The step -/

/-- 10_state.md R21, R22, R41: a step is the move of the agent whose turn it is. The requester's move runs the decoded
operation of its next line, or goes on with the operation it is held at; another agent's move is that agent's step; with no
choice left in the state the choice is free (the model's own form of R22: entry 3). The same for every parameters (00_scope.md
R7), of which `step` and `exec` are one case (entry 10). -/
def Obligations.StepRunsDecodedOperation : Prop :=
  (∀ (s : State) (ms : List Move) (r : Request) (rest : List Request) (i : Instr),
    s.sched = .req :: ms → Idle s → s.req.queue = r :: rest → decode r.word = .ok i →
      let u := { s with sched := ms, req := { s.req with queue := rest, dst := r.dst } }
      step s = exec i u ∧ ∀ p : Params, stepWith p s = execWith p i u) ∧
  (∀ (s : State) (ms : List Move) (i : Instr), s.sched = .req :: ms → HeldAt i s →
    step s = exec i { s with sched := ms } ∧ ∀ p : Params, stepWith p s = execWith p i { s with sched := ms }) ∧
  (∀ (s : State) (m : Move) (ms : List Move), s.sched = m :: ms → m ≠ .req →
    ∀ p : Params, stepWith p s = .next (agentStep p m { s with sched := ms })) ∧
  (∀ (p : Params) (s : State), s.sched = [] →
    stepWith p s = takeMove p (Config.freeMove s.clock) { s with clock := s.clock + 1 }) ∧
  (∀ s : State, step s = stepWith Config.params s) ∧
  (∀ (i : Instr) (s : State), exec i s = execWith Config.params i s)

/-- 70_reset_and_hazards.md R263, 60_exceptions.md R210, R212: a run has no end; every step of every state answers a next state,
and so does every operation. That a choice of an agent without an enabled step is answered too is the model's choice (entry 4),
and so is the answer of an operation while another is in progress (entry 16). -/
def Obligations.EveryStepAnswersNext : Prop :=
  (∀ (p : Params) (s : State), ∃ t, stepWith p s = .next t) ∧ (∀ s : State, ∃ t, step s = .next t) ∧
  (∀ (p : Params) (i : Instr) (s : State), ∃ t, execWith p i s = .next t) ∧
  (∀ (i : Instr) (s : State), ∃ t, exec i s = .next t)

/-- 10_state.md R36: after every step of every agent the two timed lines' levels before and after are compared, and a change is
appended to `hist.edges`; nothing else is. -/
def Obligations.EdgesRecordLevelChanges : Prop :=
  ∀ (p : Params) (s t : State), stepWith p s = .next t →
    t.hist.edges = s.hist.edges
      ++ (if level s .latch = level t .latch then [] else [{ line := .latch, level := level t .latch }])
      ++ (if level s .flicker = level t .flicker then [] else [{ line := .flicker, level := level t .flicker }])

/-- 10_state.md R50, R29, R32, R36: no step removes a fault record, and no step removes or changes an entry of a history. -/
def Obligations.FaultsAndHistoriesOnlyGrow : Prop :=
  ∀ (p : Params) (s t : State), stepWith p s = .next t →
    s.faults <+: t.faults ∧ s.hist.serialIn <+: t.hist.serialIn ∧ s.hist.serialOut <+: t.hist.serialOut ∧
    s.hist.busOut <+: t.hist.busOut ∧ s.hist.busIn <+: t.hist.busIn ∧ s.hist.edges <+: t.hist.edges

/-! ### Faults, interrupts -/

/-- 40_init.md R100, 60_exceptions.md R212, R213: the common checks in their order, for every operation; the first that fails
records its fault, the operation has no other effect, and `req.op` stays set. -/
def Obligations.CommonChecksInOrder : Prop :=
  ∀ s : State, Idle s →
    let halt := fun (i : Instr) (f : FaultRecord) =>
      (.next { s with
        faults := if f ∈ s.faults then s.faults else s.faults ++ [f]
        req := { s.req with op := some { issued := .op i, stage := 0 } } } : Result)
    (∀ i : Instr, i ≠ .pinInit → s.pins.ready = false → exec i s = halt i (.notConfigured i.name .pins)) ∧
    (s.pins.ready = true →
      (s.uart.configured = true → exec .uartInit s = halt .uartInit (.reconfigured .uartInit)) ∧
      (s.spi.en = true → exec .spiInit s = halt .spiInit (.reconfigured .spiInit)) ∧
      (s.ft.run = true → exec .flickerStart s = halt .flickerStart (.reconfigured .flickerStart)) ∧
      (s.uart.configured = false →
        exec .uartRecv s = halt .uartRecv (.notConfigured .uartRecv .uart) ∧
        ∀ b, exec (.uartSend b) s = halt (.uartSend b) (.notConfigured .uartSend .uart)) ∧
      (s.spi.en = false → ∀ b, exec (.spiXfer b) s = halt (.spiXfer b) (.notConfigured .spiXfer .spi))) ∧
    (∀ (i : Instr) (t : State), exec i s = .next t →
      (i = .pinInit ∨ s.pins.ready = true) →
      (i = .uartInit → s.uart.configured = false) → (i = .spiInit → s.spi.en = false) →
      (i = .flickerStart → s.ft.run = false) → (i.name = .uartRecv ∨ i.name = .uartSend → s.uart.configured = true) →
      (i.name = .spiXfer → s.spi.en = true) → t.faults = s.faults)

/-- 30_encoding.md R83, R84; 60_exceptions.md R212: an illegal word records IllegalOperation with the word, before any check of
setup; nothing else is written, and the requester is halted with `req.op` set. -/
def Obligations.IllegalWordHaltsRequester : Prop :=
  ∀ (s : State) (r : Request) (rest : List Request) (e : DecodeError),
    Idle s → s.req.queue = r :: rest → decode r.word = .error e →
      ∀ p : Params, ∃ t, takeMove p .req s = .next t ∧ halted t = true ∧
        t = { s with
          faults := if .illegalOperation r.word ∈ s.faults then s.faults else s.faults ++ [.illegalOperation r.word]
          req := { s.req with queue := rest, dst := r.dst, op := some { issued := .illegal r.word, stage := 0 } } }

/-- 60_exceptions.md R212, R218: a halted requester has no further step, whatever the other agents do: it stays halted, its
operation, variables and program stay, and it writes no pin. -/
def Obligations.HaltedRequesterNeverMoves : Prop :=
  ∀ (p : Params) (ms : List Move) (s t : State), halted s = true → runMoves p ms s = .next t →
    halted t = true ∧ t.req = s.req ∧ t.pins = s.pins ∧ takeMove p .req t = .next t

/-- 10_state.md R41: no operation starts while another is in progress, and the requester takes up no new line. -/
def Obligations.OperationInProgressBlocksOthers : Prop :=
  ∀ (s : State) (c : InProgress), s.req.op = some c →
    (∀ i : Instr, c ≠ { issued := .op i, stage := 1 } →
      exec i s = .next s ∧ ∀ p : Params, execWith p i s = .next s) ∧
    (∀ (p : Params) (t : State), takeMove p .req s = .next t → t.req.queue = s.req.queue ∧ t.req.dst = s.req.dst)

/-- 60_exceptions.md R214, 10_state.md R39: the interrupt enables are 0 after every step if they were 0 before it, and with them
no interrupt is pending. -/
def Obligations.NoInterruptEverPending : Prop :=
  ∀ s : State, EnablesZero s →
    (∀ q : IrqSource, irqPending s q = false) ∧ (∀ (p : Params) (t : State), stepWith p s = .next t → EnablesZero t)

/-! ### Setup operations -/

/-- 40_init.md R101: PIN_INIT's writes; its two edges from power-on; a second PIN_INIT changes nothing. -/
def Obligations.PinInitResult : Prop :=
  (∀ s : State, Idle s →
    exec .pinInit s = .next (recordEdges s { s with
      pins :=
        { ddr := { rxd := false, txd := true, sck := true, mosi := true, ss := true, miso := false, latch := true, flicker := true }
          port := { s.pins.port with txd := true, rxd := true, miso := true }
          ready := true } })) ∧
  (∃ t, exec .pinInit State.reset = .next t ∧
    t.hist.edges = [{ line := .latch, level := .low }, { line := .flicker, level := .low }] ∧
    latchState t = .disconnectedIdle) ∧
  (∀ s : State, Idle s → SetupShape s → s.pins.ready = true → exec .pinInit s = .next s)

/-- 40_init.md R102, R103: UART_INIT and SPI_INIT where they execute normally. -/
def Obligations.UartInitAndSpiInitResult : Prop :=
  ∀ s : State, Idle s → s.pins.ready = true →
    (s.uart.configured = false →
      exec .uartInit s = .next { s with uart := { s.uart with rxEn := true, txEn := true, configured := true } }) ∧
    (s.spi.en = false → exec .spiInit s = .next { s with spi := { s.spi with en := true, done := false } })

/-- 40_init.md R104: FLICKER_START where it executes normally, for the machine's own and for every FLICKER_CMP; from a low line
no edge is recorded. -/
def Obligations.FlickerStartResult : Prop :=
  ∀ s : State, Idle s → s.pins.ready = true → s.ft.run = false →
    let t := fun p : Params => { s with ft := { s.ft with
      cnt := 0, cmp := p.flickerCmp, oc := false, connected := true, run := true } }
    exec .flickerStart s = .next (recordEdges s (t Config.params)) ∧
    (∀ p : Params, execWith p .flickerStart s = .next (recordEdges s (t p)) ∧
      (level s .flicker = .low → execWith p .flickerStart s = .next (t p)))

/-- 40_init.md R101 to R104, 10_state.md R38: what the setup operations leave unchanged, faulting or not: each writes its own
unit's fields and no others, no history but the edges, and of the requester `req.op` only. -/
def Obligations.SetupFrame : Prop :=
  ∀ (p : Params) (i : Instr) (s t : State), i ∈ [Instr.pinInit, .uartInit, .spiInit, .flickerStart] →
    exec i s = .next t ∨ execWith p i s = .next t →
    (i ≠ .pinInit → t.pins = s.pins) ∧ (i ≠ .uartInit → t.uart = s.uart) ∧ (i ≠ .spiInit → t.spi = s.spi) ∧
    (i ≠ .flickerStart → t.ft = s.ft) ∧ t.lt = s.lt ∧
    t.pins.port = { s.pins.port with txd := t.pins.port.txd, rxd := t.pins.port.rxd, miso := t.pins.port.miso } ∧
    t.uart = { s.uart with rxEn := t.uart.rxEn, txEn := t.uart.txEn, configured := t.uart.configured } ∧
    t.spi = { s.spi with en := t.spi.en, done := t.spi.done } ∧ t.ft.ie = s.ft.ie ∧
    t.hist = { s.hist with edges := t.hist.edges } ∧ s.faults <+: t.faults ∧
    t.req = { s.req with op := t.req.op } ∧ t.sched = s.sched ∧ t.clock = s.clock

/-! ### The SPI master -/

/-- 41_spi.md R121: SPI_XFER's stage 0, its wait, and its stage 1 with the result delivered. -/
def Obligations.SpiXferResult : Prop :=
  ∀ (b : Byte) (s : State),
    (Idle s → s.pins.ready = true → s.spi.en = true →
      exec (.spiXfer b) s = .next { s with
        spi := { s.spi with shiftOut := some b }
        req := { s.req with op := some { issued := .op (.spiXfer b), stage := 1 } } }) ∧
    (HeldAt (.spiXfer b) s → s.spi.done = false → exec (.spiXfer b) s = .next s) ∧
    (HeldAt (.spiXfer b) s → s.spi.done = true →
      ∃ t, exec (.spiXfer b) s = .next t ∧
        t = { s with spi := { s.spi with done := false }, req := { s.req with op := none, x := t.req.x } } ∧
        (s.req.dst = none → t.req.x = s.req.x) ∧
        (∀ n, s.req.dst = some n →
          readVar t.req.x n = s.spi.rx ∧ ∀ k, k ≠ n → readVar t.req.x k = readVar s.req.x k))

/-- 41_spi.md R121: what SPI_XFER leaves unchanged at either stage, faulting, waiting or completing. -/
def Obligations.SpiXferFrame : Prop :=
  ∀ (b : Byte) (s t : State), exec (.spiXfer b) s = .next t →
    t.pins = s.pins ∧ t.uart = s.uart ∧ t.lt = s.lt ∧ t.ft = s.ft ∧ t.hist = s.hist ∧ s.faults <+: t.faults ∧
    t.spi = { s.spi with shiftOut := t.spi.shiftOut, done := t.spi.done } ∧
    t.req = { s.req with op := t.req.op, x := t.req.x } ∧
    (∀ k, s.req.dst ≠ some k → readVar t.req.x k = readVar s.req.x k) ∧
    t.sched = s.sched ∧ t.clock = s.clock

/-- 41_spi.md R122: the engine's step is enabled exactly when the unit is enabled and a byte is being shifted out, and then
appends the byte and the chain's answer, for every chain; while a transfer is in flight no other agent writes an `spi` field. -/
def Obligations.EngineStepCompletesTransfer : Prop :=
  (∀ s : State, moveEnabled .spie s = true ↔ s.spi.en = true ∧ ∃ b, s.spi.shiftOut = some b) ∧
  (∀ (p : Params) (s : State) (b : Byte), s.spi.en = true → s.spi.shiftOut = some b →
    agentStep p .spie s = { s with
      hist := { s.hist with busOut := s.hist.busOut ++ [b], busIn := s.hist.busIn ++ [p.chain s.hist.busOut b] }
      spi := { s.spi with rx := p.chain s.hist.busOut b, done := true, shiftOut := none } }) ∧
  (∀ (p : Params) (m : Move) (s t : State) (b : Byte), SpiProtocol s → s.spi.shiftOut = some b → m ≠ .spie →
    takeMove p m s = .next t → t.spi = s.spi)

/-- 41_spi.md R121, R122: every step keeps the transfer protocol. At stage 0 no transfer is in progress and the flag is clear; the
byte in flight is the held SPI_XFER's; a complete transfer has its byte and answer last in the histories. -/
def Obligations.StepKeepsSpiProtocol : Prop := ∀ (p : Params) (s t : State), SpiProtocol s → stepWith p s = .next t → SpiProtocol t

/-- 20_memory.md R68 (a): SPI_XFER returns only after its transfer has completed: its byte is the last of `hist.bus_out`, and the
result delivered is the last of `hist.bus_in`. -/
def Obligations.SpiXferReturnsAfterTransfer : Prop :=
  ∀ (b : Byte) (s t : State), SpiProtocol s → HeldAt (.spiXfer b) s → exec (.spiXfer b) s = .next t → t.req.op = none →
    t.hist.busOut.getLast? = some b ∧
    ∀ n, s.req.dst = some n → t.hist.busIn.getLast? = some (readVar t.req.x n)

/-- 41_spi.md R133: the bytes handed to the bus are those of the SPI_XFERs in the order the requester issued them: only the start of
an SPI_XFER adds a byte, its own; no other move adds, drops, repeats or reorders one. -/
def Obligations.BusBytesFollowTransfers : Prop :=
  ∀ (p : Params) (m : Move) (s t : State), SpiProtocol s → takeMove p m s = .next t →
    busStream t = busStream s ∨
    (m = .req ∧ s.req.op = none ∧ ∃ b, t.req.op = some { issued := .op (.spiXfer b), stage := 1 } ∧
      busStream t = busStream s ++ [b])

/-- 41_spi.md R131: with the reference chain of N stages, transfer number k + 1 of any sequence of transfers from empty histories
returns `init[k]` while k < N, and after that the byte sent N transfers before. R132: with no device on MISO every transfer
returns 0xFF. -/
def Obligations.ReferenceChainsAnswer : Prop :=
  (∀ (p : Params) (n : Nat) (init bs : List Byte) (s : State),
    1 ≤ n → init.length = n → p.chain = shiftChain n init →
    s.spi.en = true → s.hist.busOut = [] → s.hist.busIn = [] →
      let t := bs.foldl (busTransfer p) s
      t.hist.busOut = bs ∧ t.hist.busIn.length = bs.length ∧
      ∀ k, k < bs.length → t.hist.busIn[k]? = if k < n then init[k]? else bs[k - n]?) ∧
  (∀ (p : Params) (s : State) (b : Byte), p.chain = noChain → s.spi.en = true → (busTransfer p s b).spi.rx = 0xFF)

/-- 41_spi.md R126: no step of any agent changes the select line's level bit, and from PIN_INIT on (the invariant SetupShape) the line
is a driven output at 0 for good. The level of SS, which R24 defines for LATCH and FLICKER only, is the model's: entry 17. -/
def Obligations.SelectLineNeverMoves : Prop :=
  ∀ (p : Params) (s t : State), stepWith p s = .next t →
    t.pins.port.ss = s.pins.port.ss ∧
    (SetupShape s → s.pins.ready = true → level s .ss = .low ∧ level t .ss = .low)

/-! ### The latch line -/

/-- 42_latch_flicker.md R141, 00_scope.md R11: LATCH_WAIT_LOW's issue leaves it held and writes nothing else (a step of its own:
entry 5); held, it passes exactly when the line is low, and writes nothing but the requester's place. So from a low line it
passes in the requester's next two steps. -/
def Obligations.LatchWaitLowResult : Prop :=
  ∀ s : State,
    let held := { s with req := { s.req with op := some { issued := .op .latchWaitLow, stage := 1 } } }
    (Idle s → s.pins.ready = true →
      exec .latchWaitLow s = .next held ∧ (level s .latch = .low → exec .latchWaitLow held = .next s)) ∧
    (HeldAt .latchWaitLow s → level s .latch = .low →
      exec .latchWaitLow s = .next { s with req := { s.req with op := none } }) ∧
    (HeldAt .latchWaitLow s → level s .latch ≠ .low → exec .latchWaitLow s = .next s)

/-- 42_latch_flicker.md R142: LATCH_DISCONNECT's writes; afterwards the line is low whatever it was; a repetition changes
nothing. -/
def Obligations.LatchDisconnectResult : Prop :=
  ∀ s : State, Idle s → s.pins.ready = true →
    exec .latchDisconnect s = .next (recordEdges s { s with
      pins := { s.pins with port := { s.pins.port with latch := false } }, lt := { s.lt with connected := false } }) ∧
    (∀ t, exec .latchDisconnect s = .next t → s.pins.ddr.latch = true →
      level t .latch = .low ∧ exec .latchDisconnect t = .next t)

/-- 42_latch_flicker.md R143: LATCH_TIMER_STOP's write, which moves no line; with the counter stopped LT changes nothing. -/
def Obligations.LatchTimerStopResult : Prop :=
  ∀ s : State, Idle s → s.pins.ready = true →
    ∃ t, exec .latchTimerStop s = .next t ∧ t = { s with lt := { s.lt with run := false } } ∧
      exec .latchTimerStop t = .next t ∧ ∀ p : Params, agentStep p .lt t = t

/-- 42_latch_flicker.md R144, R140: LATCH_DRIVE_HIGH's write. While disconnected the line goes high, with the edge recorded if it
was low; while connected the line does not change. -/
def Obligations.LatchDriveHighResult : Prop :=
  ∀ s : State, Idle s → s.pins.ready = true →
    exec .latchDriveHigh s = .next (recordEdges s { s with
      pins := { s.pins with port := { s.pins.port with latch := true } } }) ∧
    (∀ t, exec .latchDriveHigh s = .next t →
      (s.lt.connected = true → level t .latch = level s .latch ∧ t.hist.edges = s.hist.edges) ∧
      (s.lt.connected = false → s.pins.ddr.latch = true → level s .latch = .low →
        level t .latch = .high ∧ t.hist.edges = s.hist.edges ++ [{ line := .latch, level := .high }]))

/-- 42_latch_flicker.md R145: LATCH_ARM's writes, for the machine's own and for every LATCH_CMP. From a disconnected line the
level stays across the reconnection and no edge is recorded (the spec's decision D25: entry 18). -/
def Obligations.LatchArmResult : Prop :=
  ∀ s : State, Idle s → s.pins.ready = true →
    let t := fun p : Params => { s with lt := { s.lt with
      cnt := 0, cmp := p.latchCmp, oc := s.pins.port.latch, connected := true, run := true } }
    exec .latchArm s = .next (recordEdges s (t Config.params)) ∧
    (∀ p : Params, execWith p .latchArm s = .next (recordEdges s (t p)) ∧
      (s.lt.connected = false → execWith p .latchArm s = .next (t p) ∧ level (t p) .latch = level s .latch))

/-- 42_latch_flicker.md R146: LATCH_READ delivers 1 exactly when the line is high, 0 otherwise, and changes nothing else. -/
def Obligations.LatchReadResult : Prop :=
  ∀ s : State, Idle s → s.pins.ready = true →
    ∃ t, exec .latchRead s = .next t ∧ t = { s with req := { s.req with x := t.req.x } } ∧
      (s.req.dst = none → t.req.x = s.req.x) ∧
      (∀ n, s.req.dst = some n →
        readVar t.req.x n = (if level s .latch = .high then 1 else 0) ∧
        ∀ k, k ≠ n → readVar t.req.x k = readVar s.req.x k)

/-- 42_latch_flicker.md R141 to R146: what the latch operations leave unchanged, faulting, waiting or completing: the other units, the
pins but LATCH's port bit, the histories but the edges, and of the requester all but `req.op` and LATCH_READ's destination. -/
def Obligations.LatchFrame : Prop :=
  ∀ (p : Params) (i : Instr) (s t : State),
    i ∈ [Instr.latchWaitLow, .latchDisconnect, .latchTimerStop, .latchDriveHigh, .latchArm, .latchRead] →
    exec i s = .next t ∨ execWith p i s = .next t →
      t.uart = s.uart ∧ t.spi = s.spi ∧ t.ft = s.ft ∧ t.lt.ie = s.lt.ie ∧
      t.pins = { s.pins with port := { s.pins.port with latch := t.pins.port.latch } } ∧
      (i ≠ .latchDisconnect → i ≠ .latchDriveHigh → t.pins = s.pins) ∧
      (i ≠ .latchDisconnect → i ≠ .latchArm → t.lt.connected = s.lt.connected) ∧
      (i ≠ .latchTimerStop → i ≠ .latchArm → t.lt.run = s.lt.run) ∧
      (i ≠ .latchArm → t.lt.cnt = s.lt.cnt ∧ t.lt.cmp = s.lt.cmp ∧ t.lt.oc = s.lt.oc) ∧
      t.hist = { s.hist with edges := t.hist.edges } ∧ s.faults <+: t.faults ∧
      t.req = { s.req with op := t.req.op, x := t.req.x } ∧ (i ≠ .latchRead → t.req.x = s.req.x) ∧
      (∀ k, s.req.dst ≠ some k → readVar t.req.x k = readVar s.req.x k) ∧
      t.sched = s.sched ∧ t.clock = s.clock

/-- 42_latch_flicker.md R160: LT's step is enabled exactly when the counter runs; the compare event, the action, the mode and the
wrap, for every parameters; and it writes no other field than the counter, the output and the edges. R163: a compare event while
disconnected moves neither the output nor the line. -/
def Obligations.LatchTickRule : Prop :=
  (∀ s : State, moveEnabled .lt s = true ↔ s.lt.run = true) ∧
  (∀ (p : Params) (s : State), s.lt.run = true →
    ∃ cnt oc, agentStep p .lt s = recordEdges s { s with lt := { s.lt with cnt := cnt, oc := oc } } ∧
      (s.lt.cnt ≠ s.lt.cmp → oc = s.lt.oc ∧ cnt = (s.lt.cnt + 1) % 2 ^ p.ltWidth) ∧
      (s.lt.cnt = s.lt.cmp →
        (s.lt.connected = false → oc = s.lt.oc) ∧
        (s.lt.connected = true → p.latchAction = .clear → oc = false) ∧
        (s.lt.connected = true → p.latchAction = .toggle → oc = !s.lt.oc) ∧
        (p.latchMode = .ctc → cnt = 0) ∧
        (p.latchMode = .normal → cnt = (s.lt.cnt + 1) % 2 ^ p.ltWidth))) ∧
  (∀ (p : Params) (s : State), s.lt.run = true → s.lt.connected = false → s.lt.cnt = s.lt.cmp →
    ∃ cnt, agentStep p .lt s = { s with lt := { s.lt with cnt := cnt } } ∧
      level (agentStep p .lt s) .latch = level s .latch)

/-- 42_latch_flicker.md R164, R161, R162: the output after n ticks from LATCH_ARM with the line high, C the compare value: 1 for ticks
1 to C, 0 from tick C + 1; then by action and mode alternating every C + 1 ticks, alternating every 2^LT_WIDTH ticks, or 0. -/
def Obligations.LatchOutputAfterArm : Prop :=
  ∀ (p : Params) (t : Timer) (n : Nat), p.Legal →
    t.cnt = 0 → t.cmp = p.latchCmp → t.oc = true → t.connected = true →
      (n ≤ p.latchCmp → (latchTicks p n t).oc = true ∧ (latchTicks p n t).cnt = n) ∧
      (n = p.latchCmp + 1 → (latchTicks p n t).oc = false) ∧
      (p.latchAction = .clear → p.latchCmp < n → (latchTicks p n t).oc = false) ∧
      (p.latchAction = .toggle → p.latchMode = .ctc →
        (latchTicks p n t).oc = decide (n / (p.latchCmp + 1) % 2 = 0)) ∧
      (p.latchAction = .toggle → p.latchMode = .normal → p.latchCmp < n →
        (latchTicks p n t).oc = decide ((n - (p.latchCmp + 1)) / 2 ^ p.ltWidth % 2 = 1))

/-- 42_latch_flicker.md R148, 10_state.md R34: the latch states through a trigger: (2) takes running to transient and leaves
disconnected-idle; (3) takes transient with the port low to disconnected-idle and leaves disconnected-idle; (4) takes
disconnected-idle to latching; (5) takes latching to running. -/
def Obligations.LatchStatesThroughTrigger : Prop :=
  ∀ s : State, Idle s → s.pins.ready = true →
    (latchState s = .running → ∃ t, exec .latchDisconnect s = .next t ∧ latchState t = .transient ∧
      t.lt.connected = false ∧ t.lt.run = true ∧ t.pins.port.latch = false) ∧
    (latchState s = .disconnectedIdle → ∃ t, exec .latchDisconnect s = .next t ∧ latchState t = .disconnectedIdle) ∧
    (latchState s = .transient → s.lt.connected = false →
      ∃ t, exec .latchTimerStop s = .next t ∧ latchState t = .disconnectedIdle) ∧
    (latchState s = .disconnectedIdle → ∃ t, exec .latchTimerStop s = .next t ∧ latchState t = .disconnectedIdle) ∧
    (latchState s = .disconnectedIdle → ∃ t, exec .latchDriveHigh s = .next t ∧ latchState t = .latching) ∧
    (latchState s = .latching → ∃ t, exec .latchArm s = .next t ∧ latchState t = .running)

/-- 42_latch_flicker.md R147: the five operations of LATCH_TRIGGER from a low line, the first of them held and then passing, with
any number of LT ticks after each of the requester's steps, no compare event coming before (2), and `e` ticks after (5): the
edges recorded are LATCH to 1, from (4), and LATCH to 0 at the first compare event after (5), on tick LATCH_CMP + 1; no other. -/
def Obligations.LatchTriggerMakesOnePulse : Prop :=
  ∀ (p : Params) (s : State) (w a b c d e : Nat), p.Legal →
    Idle s → s.pins.ready = true → s.pins.ddr.latch = true → level s .latch = .low → CountersFit p s →
    (s.lt.run = true → s.lt.cnt + w + a ≤ s.lt.cmp) →
    s.req.queue.map Request.word = latchTriggerWords →
    e ≤ p.latchCmp + 1 →
      ∃ t, runMoves p (.req :: List.replicate w .lt ++ .req :: List.replicate a .lt ++ .req :: List.replicate b .lt
            ++ .req :: List.replicate c .lt ++ .req :: List.replicate d .lt ++ .req :: List.replicate e .lt) s = .next t ∧
        t.hist.edges = s.hist.edges ++ [{ line := .latch, level := .high }]
          ++ (if e = p.latchCmp + 1 then [{ line := .latch, level := .low }] else []) ∧
        latchState t = .running ∧ t.req.op = none ∧ t.req.queue = [] ∧ t.faults = s.faults

/-- 70_reset_and_hazards.md R250: the latch trigger race. With a compare event between steps (1) and (2), TOGGLE leaves a spurious pulse,
(LATCH,1) then (LATCH,0), and CLEAR leaves none. -/
def Obligations.CompareEventRacesTrigger : Prop :=
  ∀ (p : Params) (s : State),
    Idle s → s.pins.ready = true → s.pins.ddr.latch = true →
    s.lt.run = true → s.lt.connected = true → s.lt.oc = false → s.lt.cnt = s.lt.cmp →
      ∃ t, exec .latchDisconnect (agentStep p .lt s) = .next t ∧
        (p.latchAction = .toggle → t.hist.edges = s.hist.edges
          ++ [{ line := .latch, level := .high }, { line := .latch, level := .low }]) ∧
        (p.latchAction = .clear → t.hist.edges = s.hist.edges)

/-! ### The flicker line -/

/-- 42_latch_flicker.md R170: FT's step is enabled exactly when the counter runs; the compare event toggles the output and clears the
counter, else the counter counts; once running it runs after every step. -/
def Obligations.FlickerTickRule : Prop :=
  (∀ s : State, moveEnabled .ft s = true ↔ s.ft.run = true) ∧
  (∀ (p : Params) (s : State), s.ft.run = true →
    ∃ cnt oc, agentStep p .ft s = recordEdges s { s with ft := { s.ft with cnt := cnt, oc := oc } } ∧
      (s.ft.cnt ≠ s.ft.cmp → oc = s.ft.oc ∧ cnt = (s.ft.cnt + 1) % 2 ^ p.ftWidth) ∧
      (s.ft.cnt = s.ft.cmp → cnt = 0 ∧ oc = if s.ft.connected then !s.ft.oc else s.ft.oc)) ∧
  (∀ (p : Params) (s t : State), s.ft.run = true → stepWith p s = .next t → t.ft.run = true)

/-- 42_latch_flicker.md R171: from FLICKER_START's fields the output toggles on every tick k (FLICKER_CMP + 1), so after n ticks it is 1
exactly when n / (FLICKER_CMP + 1) is odd. -/
def Obligations.FlickerOutputAfterTicks : Prop :=
  ∀ (p : Params) (t : Timer) (n : Nat), p.Legal →
    t.cnt = 0 → t.cmp = p.flickerCmp → t.oc = false → t.connected = true →
      (flickerTicks p n t).oc = decide (n / (p.flickerCmp + 1) % 2 = 1) ∧
      (flickerTicks p n t).cnt = n % (p.flickerCmp + 1)

/-- 42_latch_flicker.md R172: after FLICKER_START no step but FT's changes a field of the flicker timer, and none but FT's moves the
flicker line. -/
def Obligations.FlickerIndependentOfAllElse : Prop :=
  ∀ (p : Params) (m : Move) (s t : State), SetupShape s → s.ft.run = true → m ≠ .ft → takeMove p m s = .next t →
    t.ft = s.ft ∧ t.pins.port.flicker = s.pins.port.flicker ∧ level t .flicker = level s .flicker

/-! ### The UART -/

/-- 43_uart.md R182 to R185: a frame's arrival is enabled in every state; before UART_INIT it is lost and recorded; after it a 0 stop
bit is recorded and the byte kept, and with the FIFO full the byte is lost and recorded; one frame can record both, in that
order. -/
def Obligations.FrameArrivalRule : Prop :=
  ∀ (p : Params) (d : Byte) (ok : Bool) (s : State),
    let put := fun (f : FaultRecord) (fs : List FaultRecord) => if f ∈ fs then fs else fs ++ [f]
    let framed := if ok then s.faults else put (.rxFramingError d) s.faults
    moveEnabled (.up d ok) s = true ∧
    (s.uart.rxEn = false → agentStep p (.up d ok) s = { s with faults := put (.rxWhileDisabled d) s.faults }) ∧
    (s.uart.rxEn = true → s.uart.rxFifo.length = p.rxFifoDepth →
      agentStep p (.up d ok) s = { s with faults := put (.rxOverrun d) framed }) ∧
    (s.uart.rxEn = true → s.uart.rxFifo.length ≠ p.rxFifoDepth →
      agentStep p (.up d ok) s = { s with
        faults := framed
        uart := { s.uart with rxFifo := s.uart.rxFifo ++ [d] }
        hist := { s.hist with serialIn := s.hist.serialIn ++ [d] } })

/-- 43_uart.md R186, 00_scope.md R11: UART_RECV's issue leaves it held (a step of its own: entry 5); held, it takes the FIFO's head
and delivers it (variables: entry 8), or stays held while the FIFO is empty. So with a byte there it returns in the requester's
next two steps. -/
def Obligations.UartRecvResult : Prop :=
  ∀ s : State,
    let held := { s with req := { s.req with op := some { issued := .op .uartRecv, stage := 1 } } }
    let takes := fun (u : State) => ∀ d rest, s.uart.rxFifo = d :: rest →
      ∃ t, exec .uartRecv u = .next t ∧
        t = { s with uart := { s.uart with rxFifo := rest }, req := { s.req with op := none, x := t.req.x } } ∧
        (s.req.dst = none → t.req.x = s.req.x) ∧
        (∀ n, s.req.dst = some n → readVar t.req.x n = d ∧ ∀ k, k ≠ n → readVar t.req.x k = readVar s.req.x k)
    (Idle s → s.pins.ready = true → s.uart.configured = true → exec .uartRecv s = .next held ∧ takes held) ∧
    (HeldAt .uartRecv s → takes s ∧ (s.uart.rxFifo = [] → exec .uartRecv s = .next s))

/-- 43_uart.md R187, 00_scope.md R11: UART_SEND's issue leaves it held (a step of its own: entry 5); held, it queues its byte where
the buffer is free, or stays held while it is not. So with the buffer free it returns in the requester's next two steps. -/
def Obligations.UartSendResult : Prop :=
  ∀ (b : Byte) (s : State),
    let held := { s with req := { s.req with op := some { issued := .op (.uartSend b), stage := 1 } } }
    let queued := { s with uart := { s.uart with txBuf := some b }, req := { s.req with op := none } }
    (Idle s → s.pins.ready = true → s.uart.configured = true →
      exec (.uartSend b) s = .next held ∧ (s.uart.txBuf = none → exec (.uartSend b) held = .next queued)) ∧
    (HeldAt (.uartSend b) s →
      (s.uart.txBuf = none → exec (.uartSend b) s = .next queued) ∧
      (s.uart.txBuf ≠ none → exec (.uartSend b) s = .next s))

/-- 43_uart.md R186, R187: what the two UART operations leave unchanged, faulting, waiting or completing. -/
def Obligations.UartFrame : Prop :=
  ∀ (i : Instr) (s t : State), i = .uartRecv ∨ (∃ b, i = .uartSend b) → exec i s = .next t →
    t.pins = s.pins ∧ t.spi = s.spi ∧ t.lt = s.lt ∧ t.ft = s.ft ∧ t.hist = s.hist ∧ s.faults <+: t.faults ∧
    t.uart = { s.uart with rxFifo := t.uart.rxFifo, txBuf := t.uart.txBuf } ∧
    (i = .uartRecv → t.uart.txBuf = s.uart.txBuf) ∧ (i ≠ .uartRecv → t.uart.rxFifo = s.uart.rxFifo ∧ t.req.x = s.req.x) ∧
    t.req = { s.req with op := t.req.op, x := t.req.x } ∧
    (∀ k, s.req.dst ≠ some k → readVar t.req.x k = readVar s.req.x k) ∧
    t.sched = s.sched ∧ t.clock = s.clock

/-- 43_uart.md R188, R189: UTX_LOAD and UTX_DONE, each enabled exactly where its rule says, and the transmitter's one move, which
takes the enabled one of the two (the merging is the model's: entry 22). -/
def Obligations.TransmitterSteps : Prop :=
  ∀ (p : Params) (s : State),
    (∀ x, s.uart.txEn = true → s.uart.txShift = none → s.uart.txBuf = some x →
      agentStep p .utx s = { s with uart := { s.uart with txShift := some x, txBuf := none } }) ∧
    (∀ x, s.uart.txShift = some x →
      agentStep p .utx s = { s with
        hist := { s.hist with serialOut := s.hist.serialOut ++ [x] }
        uart := { s.uart with txShift := none } }) ∧
    (utxLoadEnabled s = true ↔ s.uart.txEn = true ∧ s.uart.txShift = none ∧ ∃ x, s.uart.txBuf = some x) ∧
    (utxDoneEnabled s = true ↔ ∃ x, s.uart.txShift = some x) ∧
    (moveEnabled .utx s = true ↔
      (s.uart.txEn = true ∧ s.uart.txShift = none ∧ ∃ x, s.uart.txBuf = some x) ∨ ∃ x, s.uart.txShift = some x)

/-- 43_uart.md R189, R187: frames leave in the order queued and each byte exactly once: only a UART_SEND that passes its `await`,
held with the buffer free, adds a byte to those queued, its own operand; no other move adds, drops, repeats or reorders one. -/
def Obligations.SentBytesFollowSends : Prop :=
  ∀ (p : Params) (m : Move) (s t : State), takeMove p m s = .next t →
    txStream t = txStream s ∨
    (m = .req ∧ s.uart.txBuf = none ∧
      ∃ b, HeldAt (.uartSend b) s ∧ t.uart.txBuf = some b ∧ t.req.op = none ∧ txStream t = txStream s ++ [b])

/-! ### Agents -/

/-- 10_state.md R22, 42_latch_flicker.md R172, 41_spi.md R122: what the step of an agent other than the requester leaves unchanged:
every field of another agent's unit, the pins, and the requester; and everything, where the agent has no enabled step (a choice
of such an agent is the model's own: entry 4). -/
def Obligations.AgentFrame : Prop :=
  ∀ (p : Params) (m : Move) (s : State),
    let t := agentStep p m s
    (m ≠ .req → moveEnabled m s = false → t = s) ∧
    t.pins = s.pins ∧ t.req = s.req ∧ t.sched = s.sched ∧ t.clock = s.clock ∧
    (m ≠ .lt → t.lt = s.lt) ∧ (m ≠ .ft → t.ft = s.ft) ∧ (m ≠ .spie → t.spi = s.spi) ∧
    t.lt = { s.lt with cnt := t.lt.cnt, oc := t.lt.oc } ∧ t.ft = { s.ft with cnt := t.ft.cnt, oc := t.ft.oc } ∧
    t.spi = { s.spi with shiftOut := t.spi.shiftOut, done := t.spi.done, rx := t.spi.rx } ∧
    t.uart = { s.uart with rxFifo := t.uart.rxFifo, txBuf := t.uart.txBuf, txShift := t.uart.txShift } ∧
    (m ≠ .utx → t.uart.txBuf = s.uart.txBuf ∧ t.uart.txShift = s.uart.txShift ∧ t.hist.serialOut = s.hist.serialOut) ∧
    ((∀ d ok, m ≠ .up d ok) → t.uart.rxFifo = s.uart.rxFifo ∧ t.hist.serialIn = s.hist.serialIn ∧ t.faults = s.faults) ∧
    (m ≠ .spie → t.hist.busOut = s.hist.busOut ∧ t.hist.busIn = s.hist.busIn) ∧
    (m ≠ .lt → m ≠ .ft → t.hist.edges = s.hist.edges)

/-! ### Invariants of every step -/

/-- 10_state.md R33, R35: every hardware agent's step keeps each counter within its width, for every legal parameters, and so does
every step of the machine. -/
def Obligations.CountersStayWithinWidth : Prop :=
  (∀ (p : Params) (m : Move) (s : State), p.Legal → CountersFit p s → CountersFit p (agentStep p m s)) ∧
  (∀ (p : Params) (s t : State), p.Legal → CountersFit p s → stepWith p s = .next t → CountersFit p t)

/-- 10_state.md R38, 42_latch_flicker.md R162, R170: every step keeps the compare values at 0 or their parameter, the flicker
counter at or below its compare value and, in the clear-on-compare mode CTC, the latch counter too. -/
def Obligations.StepKeepsComparesFixed : Prop :=
  ∀ (p : Params) (s t : State), ComparesFixed p s → stepWith p s = .next t → ComparesFixed p t

/-- 40_init.md R100 to R104, 10_state.md R25, R38, R41; 60_exceptions.md R212: every step keeps the shape of setup and of the
requester's place. -/
def Obligations.StepKeepsSetupAndRequester : Prop :=
  ∀ (p : Params) (s t : State), SetupShape s ∧ ReqShape s → stepWith p s = .next t → SetupShape t ∧ ReqShape t

/-- 10_state.md R27, R29, R32, R50; 00_scope.md R7: every step keeps the books, the FIFO within whatever depth RX_FIFO_DEPTH is,
and so does every hardware agent's step by itself. -/
def Obligations.StepKeepsBooks : Prop :=
  (∀ (p : Params) (m : Move) (s : State), BooksKept p s → BooksKept p (agentStep p m s)) ∧
  (∀ (p : Params) (s t : State), BooksKept p s → stepWith p s = .next t → BooksKept p t)

/-- 10_state.md R36: after every step `hist.edges` tells the present level of the latch and flicker lines. -/
def Obligations.StepKeepsEdgesTelling : Prop := ∀ (p : Params) (s t : State), EdgesTell s → stepWith p s = .next t → EdgesTell t

/-! ### Waiting and progress -/

/-- 70_reset_and_hazards.md R255; 41_spi.md R124; 42_latch_flicker.md R141, R165; 43_uart.md R186, R192: no wait times out. Each
waiting operation stays held for as long as the agent it waits for does not step; and LATCH_WAIT_LOW never returns on a high line
that no compare event can move, whatever moves follow. -/
def Obligations.WaitsNeverTimeOut : Prop :=
  ∀ (p : Params) (ms : List Move) (s t : State), runMoves p ms s = .next t →
    (∀ b, HeldAt (.spiXfer b) s → s.spi.done = false → .spie ∉ ms → HeldAt (.spiXfer b) t) ∧
    (HeldAt .latchWaitLow s → level s .latch ≠ .low → .lt ∉ ms → HeldAt .latchWaitLow t) ∧
    (HeldAt .latchWaitLow s → level s .latch = .high → (s.lt.connected = false ∨ s.lt.run = false) →
      HeldAt .latchWaitLow t ∧ level t .latch = .high) ∧
    (HeldAt .uartRecv s → s.uart.rxFifo = [] → (∀ d ok, .up d ok ∉ ms) → HeldAt .uartRecv t) ∧
    (∀ b, HeldAt (.uartSend b) s → s.uart.txBuf ≠ none → .utx ∉ ms → HeldAt (.uartSend b) t)

/-- 60_exceptions.md R226, 41_spi.md R124: under fair_spi and fair_req a held SPI_XFER returns, its byte having reached the bus. -/
def Obligations.FairSpiTransferCompletes : Prop :=
  ∀ (p : Params) (e : Execution p) (n : Nat) (b : Byte), e.FairSpi → e.FairReq →
    SetupShape (e.states n) → SpiProtocol (e.states n) → HeldAt (.spiXfer b) (e.states n) →
      ∃ k, n < k ∧ (e.states k).req.op = none ∧ (e.states k).spi.done = false ∧
        (e.states k).hist.busOut = busStream (e.states n)

/-- 60_exceptions.md R226, 43_uart.md R192: under fair_tx a queued byte leaves on TXD, after those queued before it (UTX's two
steps are one move: entry 22). -/
def Obligations.FairTransmitterSendsQueuedByte : Prop :=
  ∀ (p : Params) (e : Execution p) (n : Nat) (x : Byte), e.FairTx →
    (e.states n).uart.txEn = true → (e.states n).uart.txBuf = some x →
      ∃ k, n < k ∧ txStream (e.states n) <+: (e.states k).hist.serialOut

/-- 60_exceptions.md R226, 42_latch_flicker.md R171: under fair_timers, in the weak reading of entry 26, a started flicker timer moves
the flicker line again and again. -/
def Obligations.FairTimersKeepFlickering : Prop :=
  ∀ (p : Params) (e : Execution p) (n : Nat), e.FairTimers →
    (e.states n).ft.run = true → (e.states n).ft.connected = true → (e.states n).pins.ddr.flicker = true →
    CountersFit p (e.states n) →
      ∃ k v, n < k ∧ (e.states k).hist.edges.count { line := .flicker, level := v } >
        (e.states n).hist.edges.count { line := .flicker, level := v }

/-! ### Lines -/

/-- 43_uart.md R180, R184: a UART frame is 10 bit cells, a start bit 0, the data bits least significant first, the stop bit; sampling
it gives back the byte and the stop bit, so a 0 stop bit is seen. 20_memory.md R61, 41_spi.md R123: an SPI transfer is eight clock
cycles; in cycle k SCK leaves its idle level with bit k of the byte, in the bit order, set up on MOSI, and returns to it with that
bit still there to be sampled; bits shifted out and in by the same order make the byte. The levels and the bit order are the spec's
general knowledge, read through the model's own sampling, which no step uses (entry 19). -/
def Obligations.LinesCarryTheByte : Prop :=
  (∀ (d : Byte) (stop : Bool),
    (uartFrame d stop).length = Config.uartFrameBits ∧ (uartFrame d stop).head? = some false ∧
    (∀ k, k < 8 → (uartFrame d stop)[k + 1]? = some (d.getLsbD k)) ∧ (uartFrame d stop)[9]? = some stop ∧
    uartSample (uartFrame d stop) = some (d, stop)) ∧
  (∀ (o : BitOrder) (cpol : Bool) (b : Byte),
    spiByte o (spiBits o b) = b ∧ (spiBits o b).length = 8 ∧ (spiWave cpol o b).length = 2 * 8 ∧
    (∀ k, k < 8 →
      (spiWave cpol o b)[2 * k]? = (spiBits o b)[k]?.map (fun bit => (!cpol, bit)) ∧
      (spiWave cpol o b)[2 * k + 1]? = (spiBits o b)[k]?.map (fun bit => (cpol, bit)) ∧
      (spiBits .msbFirst b)[k]? = some (b.getLsbD (7 - k)) ∧ (spiBits .lsbFirst b)[k]? = some (b.getLsbD k)))
end

