-- ==== Sys2Proof/Laws/State.lean ====
section
/-! SUPPORT. One lemma per field per update of the state (Machine/Ops.lean), so that no proof unfolds a record update. -/

namespace Sys2Proof.Machine

section
variable (s : State)

@[simp] theorem setPins_pins (v : Pins) : (s.setPins v).pins = v := rfl
@[simp] theorem setPins_uart (v : Pins) : (s.setPins v).uart = s.uart := rfl
@[simp] theorem setPins_spi (v : Pins) : (s.setPins v).spi = s.spi := rfl
@[simp] theorem setPins_lt (v : Pins) : (s.setPins v).lt = s.lt := rfl
@[simp] theorem setPins_ft (v : Pins) : (s.setPins v).ft = s.ft := rfl
@[simp] theorem setPins_hist (v : Pins) : (s.setPins v).hist = s.hist := rfl
@[simp] theorem setPins_faults (v : Pins) : (s.setPins v).faults = s.faults := rfl
@[simp] theorem setPins_req (v : Pins) : (s.setPins v).req = s.req := rfl
@[simp] theorem setPins_sched (v : Pins) : (s.setPins v).sched = s.sched := rfl
@[simp] theorem setPins_clock (v : Pins) : (s.setPins v).clock = s.clock := rfl

@[simp] theorem setUart_pins (v : Uart) : (s.setUart v).pins = s.pins := rfl
@[simp] theorem setUart_uart (v : Uart) : (s.setUart v).uart = v := rfl
@[simp] theorem setUart_spi (v : Uart) : (s.setUart v).spi = s.spi := rfl
@[simp] theorem setUart_lt (v : Uart) : (s.setUart v).lt = s.lt := rfl
@[simp] theorem setUart_ft (v : Uart) : (s.setUart v).ft = s.ft := rfl
@[simp] theorem setUart_hist (v : Uart) : (s.setUart v).hist = s.hist := rfl
@[simp] theorem setUart_faults (v : Uart) : (s.setUart v).faults = s.faults := rfl
@[simp] theorem setUart_req (v : Uart) : (s.setUart v).req = s.req := rfl
@[simp] theorem setUart_sched (v : Uart) : (s.setUart v).sched = s.sched := rfl
@[simp] theorem setUart_clock (v : Uart) : (s.setUart v).clock = s.clock := rfl

@[simp] theorem setSpi_pins (v : Spi) : (s.setSpi v).pins = s.pins := rfl
@[simp] theorem setSpi_uart (v : Spi) : (s.setSpi v).uart = s.uart := rfl
@[simp] theorem setSpi_spi (v : Spi) : (s.setSpi v).spi = v := rfl
@[simp] theorem setSpi_lt (v : Spi) : (s.setSpi v).lt = s.lt := rfl
@[simp] theorem setSpi_ft (v : Spi) : (s.setSpi v).ft = s.ft := rfl
@[simp] theorem setSpi_hist (v : Spi) : (s.setSpi v).hist = s.hist := rfl
@[simp] theorem setSpi_faults (v : Spi) : (s.setSpi v).faults = s.faults := rfl
@[simp] theorem setSpi_req (v : Spi) : (s.setSpi v).req = s.req := rfl
@[simp] theorem setSpi_sched (v : Spi) : (s.setSpi v).sched = s.sched := rfl
@[simp] theorem setSpi_clock (v : Spi) : (s.setSpi v).clock = s.clock := rfl

@[simp] theorem setLt_pins (v : Timer) : (s.setLt v).pins = s.pins := rfl
@[simp] theorem setLt_uart (v : Timer) : (s.setLt v).uart = s.uart := rfl
@[simp] theorem setLt_spi (v : Timer) : (s.setLt v).spi = s.spi := rfl
@[simp] theorem setLt_lt (v : Timer) : (s.setLt v).lt = v := rfl
@[simp] theorem setLt_ft (v : Timer) : (s.setLt v).ft = s.ft := rfl
@[simp] theorem setLt_hist (v : Timer) : (s.setLt v).hist = s.hist := rfl
@[simp] theorem setLt_faults (v : Timer) : (s.setLt v).faults = s.faults := rfl
@[simp] theorem setLt_req (v : Timer) : (s.setLt v).req = s.req := rfl
@[simp] theorem setLt_sched (v : Timer) : (s.setLt v).sched = s.sched := rfl
@[simp] theorem setLt_clock (v : Timer) : (s.setLt v).clock = s.clock := rfl

@[simp] theorem setFt_pins (v : Timer) : (s.setFt v).pins = s.pins := rfl
@[simp] theorem setFt_uart (v : Timer) : (s.setFt v).uart = s.uart := rfl
@[simp] theorem setFt_spi (v : Timer) : (s.setFt v).spi = s.spi := rfl
@[simp] theorem setFt_lt (v : Timer) : (s.setFt v).lt = s.lt := rfl
@[simp] theorem setFt_ft (v : Timer) : (s.setFt v).ft = v := rfl
@[simp] theorem setFt_hist (v : Timer) : (s.setFt v).hist = s.hist := rfl
@[simp] theorem setFt_faults (v : Timer) : (s.setFt v).faults = s.faults := rfl
@[simp] theorem setFt_req (v : Timer) : (s.setFt v).req = s.req := rfl
@[simp] theorem setFt_sched (v : Timer) : (s.setFt v).sched = s.sched := rfl
@[simp] theorem setFt_clock (v : Timer) : (s.setFt v).clock = s.clock := rfl

@[simp] theorem setHist_pins (v : Hist) : (s.setHist v).pins = s.pins := rfl
@[simp] theorem setHist_uart (v : Hist) : (s.setHist v).uart = s.uart := rfl
@[simp] theorem setHist_spi (v : Hist) : (s.setHist v).spi = s.spi := rfl
@[simp] theorem setHist_lt (v : Hist) : (s.setHist v).lt = s.lt := rfl
@[simp] theorem setHist_ft (v : Hist) : (s.setHist v).ft = s.ft := rfl
@[simp] theorem setHist_hist (v : Hist) : (s.setHist v).hist = v := rfl
@[simp] theorem setHist_faults (v : Hist) : (s.setHist v).faults = s.faults := rfl
@[simp] theorem setHist_req (v : Hist) : (s.setHist v).req = s.req := rfl
@[simp] theorem setHist_sched (v : Hist) : (s.setHist v).sched = s.sched := rfl
@[simp] theorem setHist_clock (v : Hist) : (s.setHist v).clock = s.clock := rfl

@[simp] theorem setFaults_pins (v : List FaultRecord) : (s.setFaults v).pins = s.pins := rfl
@[simp] theorem setFaults_uart (v : List FaultRecord) : (s.setFaults v).uart = s.uart := rfl
@[simp] theorem setFaults_spi (v : List FaultRecord) : (s.setFaults v).spi = s.spi := rfl
@[simp] theorem setFaults_lt (v : List FaultRecord) : (s.setFaults v).lt = s.lt := rfl
@[simp] theorem setFaults_ft (v : List FaultRecord) : (s.setFaults v).ft = s.ft := rfl
@[simp] theorem setFaults_hist (v : List FaultRecord) : (s.setFaults v).hist = s.hist := rfl
@[simp] theorem setFaults_faults (v : List FaultRecord) : (s.setFaults v).faults = v := rfl
@[simp] theorem setFaults_req (v : List FaultRecord) : (s.setFaults v).req = s.req := rfl
@[simp] theorem setFaults_sched (v : List FaultRecord) : (s.setFaults v).sched = s.sched := rfl
@[simp] theorem setFaults_clock (v : List FaultRecord) : (s.setFaults v).clock = s.clock := rfl

@[simp] theorem setReq_pins (v : Req) : (s.setReq v).pins = s.pins := rfl
@[simp] theorem setReq_uart (v : Req) : (s.setReq v).uart = s.uart := rfl
@[simp] theorem setReq_spi (v : Req) : (s.setReq v).spi = s.spi := rfl
@[simp] theorem setReq_lt (v : Req) : (s.setReq v).lt = s.lt := rfl
@[simp] theorem setReq_ft (v : Req) : (s.setReq v).ft = s.ft := rfl
@[simp] theorem setReq_hist (v : Req) : (s.setReq v).hist = s.hist := rfl
@[simp] theorem setReq_faults (v : Req) : (s.setReq v).faults = s.faults := rfl
@[simp] theorem setReq_req (v : Req) : (s.setReq v).req = v := rfl
@[simp] theorem setReq_sched (v : Req) : (s.setReq v).sched = s.sched := rfl
@[simp] theorem setReq_clock (v : Req) : (s.setReq v).clock = s.clock := rfl

@[simp] theorem setSched_pins (v : List Move) : (s.setSched v).pins = s.pins := rfl
@[simp] theorem setSched_uart (v : List Move) : (s.setSched v).uart = s.uart := rfl
@[simp] theorem setSched_spi (v : List Move) : (s.setSched v).spi = s.spi := rfl
@[simp] theorem setSched_lt (v : List Move) : (s.setSched v).lt = s.lt := rfl
@[simp] theorem setSched_ft (v : List Move) : (s.setSched v).ft = s.ft := rfl
@[simp] theorem setSched_hist (v : List Move) : (s.setSched v).hist = s.hist := rfl
@[simp] theorem setSched_faults (v : List Move) : (s.setSched v).faults = s.faults := rfl
@[simp] theorem setSched_req (v : List Move) : (s.setSched v).req = s.req := rfl
@[simp] theorem setSched_sched (v : List Move) : (s.setSched v).sched = v := rfl
@[simp] theorem setSched_clock (v : List Move) : (s.setSched v).clock = s.clock := rfl

@[simp] theorem setClock_pins (v : Nat) : (s.setClock v).pins = s.pins := rfl
@[simp] theorem setClock_uart (v : Nat) : (s.setClock v).uart = s.uart := rfl
@[simp] theorem setClock_spi (v : Nat) : (s.setClock v).spi = s.spi := rfl
@[simp] theorem setClock_lt (v : Nat) : (s.setClock v).lt = s.lt := rfl
@[simp] theorem setClock_ft (v : Nat) : (s.setClock v).ft = s.ft := rfl
@[simp] theorem setClock_hist (v : Nat) : (s.setClock v).hist = s.hist := rfl
@[simp] theorem setClock_faults (v : Nat) : (s.setClock v).faults = s.faults := rfl
@[simp] theorem setClock_req (v : Nat) : (s.setClock v).req = s.req := rfl
@[simp] theorem setClock_sched (v : Nat) : (s.setClock v).sched = s.sched := rfl
@[simp] theorem setClock_clock (v : Nat) : (s.setClock v).clock = v := rfl

@[simp] theorem setOp_pins (v : Option InProgress) : (s.setOp v).pins = s.pins := rfl
@[simp] theorem setOp_uart (v : Option InProgress) : (s.setOp v).uart = s.uart := rfl
@[simp] theorem setOp_spi (v : Option InProgress) : (s.setOp v).spi = s.spi := rfl
@[simp] theorem setOp_lt (v : Option InProgress) : (s.setOp v).lt = s.lt := rfl
@[simp] theorem setOp_ft (v : Option InProgress) : (s.setOp v).ft = s.ft := rfl
@[simp] theorem setOp_hist (v : Option InProgress) : (s.setOp v).hist = s.hist := rfl
@[simp] theorem setOp_faults (v : Option InProgress) : (s.setOp v).faults = s.faults := rfl
@[simp] theorem setOp_req (v : Option InProgress) : (s.setOp v).req = { s.req with op := v } := rfl
@[simp] theorem setOp_sched (v : Option InProgress) : (s.setOp v).sched = s.sched := rfl
@[simp] theorem setOp_clock (v : Option InProgress) : (s.setOp v).clock = s.clock := rfl

@[simp] theorem setLatchPort_pins (v : Bool) :
    (setLatchPort s v).pins = { s.pins with port := { s.pins.port with latch := v } } := rfl
@[simp] theorem setLatchPort_uart (v : Bool) : (setLatchPort s v).uart = s.uart := rfl
@[simp] theorem setLatchPort_spi (v : Bool) : (setLatchPort s v).spi = s.spi := rfl
@[simp] theorem setLatchPort_lt (v : Bool) : (setLatchPort s v).lt = s.lt := rfl
@[simp] theorem setLatchPort_ft (v : Bool) : (setLatchPort s v).ft = s.ft := rfl
@[simp] theorem setLatchPort_hist (v : Bool) : (setLatchPort s v).hist = s.hist := rfl
@[simp] theorem setLatchPort_faults (v : Bool) : (setLatchPort s v).faults = s.faults := rfl
@[simp] theorem setLatchPort_req (v : Bool) : (setLatchPort s v).req = s.req := rfl
@[simp] theorem setLatchPort_sched (v : Bool) : (setLatchPort s v).sched = s.sched := rfl
@[simp] theorem setLatchPort_clock (v : Bool) : (setLatchPort s v).clock = s.clock := rfl

end

end Sys2Proof.Machine
end

