-- ==== Sys2Proof/Laws/Vars.lean ====
section
/-! SUPPORT. The requester's variables: a read after a write, other variables alone, and the canonical form kept. -/

namespace Sys2Proof.Machine

@[simp] theorem readVar_nil (n : Nat) : readVar [] n = 0 := rfl

theorem readVar_cons (c : Host.Cell) (x : List Host.Cell) (n : Nat) :
    readVar (c :: x) n = if c.1 = n then c.2 else readVar x n := rfl

theorem readVar_insertVar (x : List Host.Cell) (n k : Nat) (v : Byte) :
    readVar (insertVar x n v) k = if k = n then v else readVar x k := by
  induction x with
  | nil => simp [insertVar, readVar_cons, eq_comm]
  | cons c rest ih =>
    unfold insertVar
    split
    · rename_i h
      rw [readVar_cons, readVar_cons, ih]
      by_cases hk : k = n
      · subst hk
        simp [Nat.ne_of_lt h]
      · simp [hk]
    · split
      · rename_i h
        by_cases hk : k = n
        · simp [readVar_cons, hk]
        · simp [readVar_cons, hk, h, Ne.symm hk]
      · by_cases hk : k = n
        · simp [readVar_cons, hk]
        · simp [readVar_cons, hk, Ne.symm hk]

theorem readVar_filter (x : List Host.Cell) (n k : Nat) :
    readVar (x.filter (fun c => decide (c.1 ≠ n))) k = if k = n then 0 else readVar x k := by
  induction x with
  | nil => simp
  | cons c rest ih =>
    by_cases hc : c.1 = n
    · rw [List.filter_cons_of_neg (by simp [hc]), ih, readVar_cons]
      by_cases hk : k = n
      · simp [hk]
      · simp [hk, hc, Ne.symm hk]
    · rw [List.filter_cons_of_pos (by simp [hc]), readVar_cons, readVar_cons, ih]
      by_cases hk : k = n
      · subst hk
        simp [hc]
      · simp [hk]

/-- A variable reads as the value written last; a write leaves every other variable alone. -/
theorem readVar_writeVar (x : List Host.Cell) (n k : Nat) (v : Byte) :
    readVar (writeVar x n v) k = if k = n then v else readVar x k := by
  unfold writeVar
  split
  · rename_i h
    rw [readVar_filter, h]
  · exact readVar_insertVar x n k v

theorem varsWf_cons (c : Host.Cell) (x : List Host.Cell) :
    varsWf (c :: x) = true ↔ c.2 ≠ 0 ∧ (∀ d ∈ x, c.1 < d.1) ∧ varsWf x = true := by
  simp [varsWf, and_assoc]

theorem mem_insertVar {x : List Host.Cell} {n : Nat} {v : Byte} {d : Host.Cell} (h : d ∈ insertVar x n v) :
    d = (n, v) ∨ d ∈ x := by
  induction x with
  | nil => simpa [insertVar] using h
  | cons c rest ih =>
    unfold insertVar at h
    split at h
    · rcases List.mem_cons.mp h with h | h
      · exact .inr (h ▸ List.mem_cons_self)
      · exact (ih h).imp id (List.mem_cons_of_mem _)
    · split at h
      · exact (List.mem_cons.mp h).imp id (List.mem_cons_of_mem _)
      · exact List.mem_cons.mp h

theorem varsWf_insertVar {x : List Host.Cell} (n : Nat) {v : Byte} (hv : v ≠ 0) (hx : varsWf x = true) :
    varsWf (insertVar x n v) = true := by
  induction x with
  | nil => simpa [insertVar, varsWf] using hv
  | cons c rest ih =>
    obtain ⟨hc, hlt, hr⟩ := (varsWf_cons c rest).mp hx
    unfold insertVar
    split
    · rename_i h
      refine (varsWf_cons _ _).mpr ⟨hc, fun d hd => ?_, ih hr⟩
      rcases mem_insertVar hd with rfl | hd
      · exact h
      · exact hlt d hd
    · split
      · rename_i _ h
        exact (varsWf_cons _ _).mpr ⟨hv, fun d hd => h ▸ hlt d hd, hr⟩
      · rename_i h h'
        refine (varsWf_cons _ _).mpr ⟨hv, fun d hd => ?_, hx⟩
        have hn : n < c.1 := by omega
        rcases List.mem_cons.mp hd with rfl | hd
        · exact hn
        · exact Nat.lt_trans hn (hlt d hd)

theorem varsWf_filter {x : List Host.Cell} (q : Host.Cell → Bool) (hx : varsWf x = true) :
    varsWf (x.filter q) = true := by
  induction x with
  | nil => rfl
  | cons c rest ih =>
    obtain ⟨hc, hlt, hr⟩ := (varsWf_cons c rest).mp hx
    by_cases h : q c = true
    · rw [List.filter_cons_of_pos h]
      exact (varsWf_cons _ _).mpr ⟨hc, fun d hd => hlt d (List.mem_filter.mp hd).1, ih hr⟩
    · rw [List.filter_cons_of_neg h]
      exact ih hr

/-- A write keeps the canonical form. -/
theorem varsWf_writeVar {x : List Host.Cell} (n : Nat) (v : Byte) (hx : varsWf x = true) :
    varsWf (writeVar x n v) = true := by
  unfold writeVar
  split
  · exact varsWf_filter _ hx
  · rename_i h
    exact varsWf_insertVar n h hx

end Sys2Proof.Machine
end

