-- ==== Sys2Proof/Laws/Ops.lean ====
section
/-! SUPPORT. What each shared operation can do, said once: recording edges, raising a fault, the common checks, the requester's
step for an operation, delivering a result. -/

namespace Sys2Proof.Machine

/-! ### Levels -/

/-- The two timed lines' levels depend on the pins and the two timers only. -/
theorem level_congr {s t : State} (hp : t.pins = s.pins) (hl : t.lt = s.lt) (hf : t.ft = s.ft) (p : Pin) :
    level t p = level s p := by
  simp [level, hp, hl, hf]

/-- The level of LATCH: not driven as an input, the compare output while connected, else the port bit. -/
theorem level_latch (s : State) :
    level s .latch =
      bif s.pins.ddr.latch then (bif s.lt.connected then drive s.lt.oc else drive s.pins.port.latch) else .z := by
  cases h : s.pins.ddr.latch <;> cases hc : s.lt.connected <;> simp [level, pinBit, h, hc]

/-- The level of FLICKER. -/
theorem level_flicker (s : State) :
    level s .flicker =
      bif s.pins.ddr.flicker then (bif s.ft.connected then drive s.ft.oc else drive s.pins.port.flicker) else .z := by
  cases h : s.pins.ddr.flicker <;> cases hc : s.ft.connected <;> simp [level, pinBit, h, hc]

@[simp] theorem drive_low (b : Bool) : drive b = .low ↔ b = false := by cases b <;> simp [drive]
@[simp] theorem drive_high (b : Bool) : drive b = .high ↔ b = true := by cases b <;> simp [drive]
@[simp] theorem drive_z (b : Bool) : drive b ≠ .z := by cases b <;> simp [drive]

/-! ### Recording edges -/

section
variable (s t : State)

@[simp] theorem recordEdges_pins : (recordEdges s t).pins = t.pins := rfl
@[simp] theorem recordEdges_uart : (recordEdges s t).uart = t.uart := rfl
@[simp] theorem recordEdges_spi : (recordEdges s t).spi = t.spi := rfl
@[simp] theorem recordEdges_lt : (recordEdges s t).lt = t.lt := rfl
@[simp] theorem recordEdges_ft : (recordEdges s t).ft = t.ft := rfl
@[simp] theorem recordEdges_faults : (recordEdges s t).faults = t.faults := rfl
@[simp] theorem recordEdges_req : (recordEdges s t).req = t.req := rfl
@[simp] theorem recordEdges_sched : (recordEdges s t).sched = t.sched := rfl
@[simp] theorem recordEdges_clock : (recordEdges s t).clock = t.clock := rfl
@[simp] theorem recordEdges_hist : (recordEdges s t).hist =
    { t.hist with edges := t.hist.edges ++ (edgeOn s t .latch ++ edgeOn s t .flicker) } := rfl
@[simp] theorem recordEdges_level (p : Pin) : level (recordEdges s t) p = level t p := level_congr rfl rfl rfl p
@[simp] theorem recordEdges_halted : halted (recordEdges s t) = halted t := rfl

end

theorem edgeOn_of_eq {s t : State} {p : Pin} (h : level s p = level t p) : edgeOn s t p = [] := by simp [edgeOn, h]

/-- A step that moves neither timed line records nothing. -/
theorem recordEdges_of_level_eq {s t : State} (hl : level s .latch = level t .latch)
    (hf : level s .flicker = level t .flicker) : recordEdges s t = t := by
  simp [recordEdges, edgeOn_of_eq hl, edgeOn_of_eq hf, State.setHist]

/-- A step that leaves the pins and the timers records nothing. -/
theorem recordEdges_of_same {s t : State} (hp : t.pins = s.pins) (hl : t.lt = s.lt) (hf : t.ft = s.ft) :
    recordEdges s t = t :=
  recordEdges_of_level_eq (level_congr hp hl hf _).symm (level_congr hp hl hf _).symm

@[simp] theorem recordEdges_self (s : State) : recordEdges s s = s := recordEdges_of_same rfl rfl rfl

/-! ### Raising faults -/

/-- What the set of faults becomes: as it was, or with the new record last. -/
theorem addFault_cases (f : FaultRecord) (fs : List FaultRecord) :
    (f ∈ fs ∧ addFault f fs = fs) ∨ (f ∉ fs ∧ addFault f fs = fs ++ [f]) := by
  by_cases h : f ∈ fs <;> simp [addFault, h]

theorem prefix_addFault (f : FaultRecord) (fs : List FaultRecord) : fs <+: addFault f fs := by
  rcases addFault_cases f fs with ⟨_, h⟩ | ⟨_, h⟩ <;> simp [h]

theorem mem_addFault (f : FaultRecord) (fs : List FaultRecord) : f ∈ addFault f fs := by
  rcases addFault_cases f fs with ⟨h', h⟩ | ⟨_, h⟩
  · rwa [h]
  · simp [h]

theorem nodup_addFault {f : FaultRecord} {fs : List FaultRecord} (h : fs.Nodup) : (addFault f fs).Nodup := by
  rcases addFault_cases f fs with ⟨_, h'⟩ | ⟨h₁, h'⟩
  · rwa [h']
  · rw [h']
    exact List.nodup_append.mpr ⟨h, by simp, fun a ha b hb => by
      rw [List.mem_singleton.mp hb]; rintro rfl; exact h₁ ha⟩

theorem any_addFault (q : FaultRecord → Bool) (f : FaultRecord) (fs : List FaultRecord) :
    (addFault f fs).any q = (q f || fs.any q) := by
  rcases addFault_cases f fs with ⟨hm, h⟩ | ⟨_, h⟩
  · rw [h]
    cases hq : q f
    · simp
    · simpa [hq] using ⟨f, hm, hq⟩
  · rw [h]
    simp [Bool.or_comm]

section
variable (f : FaultRecord) (o : Issued) (s : State)

@[simp] theorem raiseFault_pins : (raiseFault f s).pins = s.pins := rfl
@[simp] theorem raiseFault_uart : (raiseFault f s).uart = s.uart := rfl
@[simp] theorem raiseFault_spi : (raiseFault f s).spi = s.spi := rfl
@[simp] theorem raiseFault_lt : (raiseFault f s).lt = s.lt := rfl
@[simp] theorem raiseFault_ft : (raiseFault f s).ft = s.ft := rfl
@[simp] theorem raiseFault_hist : (raiseFault f s).hist = s.hist := rfl
@[simp] theorem raiseFault_faults : (raiseFault f s).faults = addFault f s.faults := rfl
@[simp] theorem raiseFault_req : (raiseFault f s).req = s.req := rfl
@[simp] theorem raiseFault_sched : (raiseFault f s).sched = s.sched := rfl
@[simp] theorem raiseFault_clock : (raiseFault f s).clock = s.clock := rfl
@[simp] theorem raiseReqFault_pins : (raiseReqFault f o s).pins = s.pins := rfl
@[simp] theorem raiseReqFault_uart : (raiseReqFault f o s).uart = s.uart := rfl
@[simp] theorem raiseReqFault_spi : (raiseReqFault f o s).spi = s.spi := rfl
@[simp] theorem raiseReqFault_lt : (raiseReqFault f o s).lt = s.lt := rfl
@[simp] theorem raiseReqFault_ft : (raiseReqFault f o s).ft = s.ft := rfl
@[simp] theorem raiseReqFault_hist : (raiseReqFault f o s).hist = s.hist := rfl
@[simp] theorem raiseReqFault_faults : (raiseReqFault f o s).faults = addFault f s.faults := rfl
@[simp] theorem raiseReqFault_req :
    (raiseReqFault f o s).req = { s.req with op := some { issued := o, stage := 0 } } := rfl
@[simp] theorem raiseReqFault_sched : (raiseReqFault f o s).sched = s.sched := rfl
@[simp] theorem raiseReqFault_clock : (raiseReqFault f o s).clock = s.clock := rfl

end

@[simp] theorem raiseFault_halted (f : FaultRecord) (s : State) :
    halted (raiseFault f s) = (raisedByReq f || halted s) := any_addFault raisedByReq f s.faults

/-- A requester whose faults are those of another state is halted in both or in neither. -/
theorem halted_congr {s t : State} (h : t.faults = s.faults) : halted t = halted s := by simp [halted, h]

/-! ### The common checks -/

/-- Each common check names a fault of REQ, so an operation that fails one is halted by it. -/
theorem raisedByReq_of_precheck {i : Instr} {s : State} {f : FaultRecord} (h : precheck i s = some f) :
    raisedByReq f = true := by
  unfold precheck at h
  repeat' split at h
  all_goals first
    | (cases h; rfl)
    | cases h

/-- The checks pass exactly when the operation's setup is done and is not being repeated (40_init.md R100). -/
theorem precheck_eq_none (i : Instr) (s : State) :
    precheck i s = none ↔
      (i.name = .pinInit ∨ s.pins.ready = true) ∧ (i.name = .uartInit → s.uart.configured = false) ∧
      (i.name = .spiInit → s.spi.en = false) ∧ (i.name = .flickerStart → s.ft.run = false) ∧
      (i.name = .uartRecv ∨ i.name = .uartSend → s.uart.configured = true) ∧ (i.name = .spiXfer → s.spi.en = true) := by
  cases i <;> simp [precheck, Instr.name] <;>
    cases s.pins.ready <;> cases s.uart.configured <;> cases s.spi.en <;> cases s.ft.run <;> simp

/-- The checks read only `pins.ready`, the setup marks of the UART and the SPI, and `ft.run`. -/
theorem precheck_congr {s t : State} (i : Instr) (hp : t.pins.ready = s.pins.ready)
    (hu : t.uart.configured = s.uart.configured) (hs : t.spi.en = s.spi.en) (hf : t.ft.run = s.ft.run) :
    precheck i t = precheck i s := by simp [precheck, hp, hu, hs, hf]

@[simp] theorem recordEdges_precheck (i : Instr) (s t : State) : precheck i (recordEdges s t) = precheck i t := rfl

/-! ### The requester's step for an operation -/

/-- Everything the requester's step for an operation can do: nothing, as it is halted or another operation is in progress; the
fault of a failed check; the operation's start; what follows its `await`. -/
theorem opAdvance_cases (i : Instr) (start resume : State → State) (s : State) :
    (halted s = true ∧ opAdvance i start resume s = s) ∨
    (halted s = false ∧ s.req.op = none ∧
      ((∃ f, precheck i s = some f ∧ opAdvance i start resume s = raiseReqFault f (.op i) s) ∨
        (precheck i s = none ∧ opAdvance i start resume s = start s))) ∨
    (HeldAt i s ∧ opAdvance i start resume s = resume s) ∨
    (halted s = false ∧ ∃ c, s.req.op = some c ∧ c ≠ { issued := .op i, stage := 1 } ∧ opAdvance i start resume s = s) := by
  unfold opAdvance HeldAt
  cases hh : halted s
  · cases hop : s.req.op with
    | none => cases hp : precheck i s <;> simp
    | some c => by_cases hc : c = { issued := .op i, stage := 1 } <;> simp [hc]
  · simp

theorem opAdvance_halted {i : Instr} {start resume : State → State} {s : State} (h : halted s = true) :
    opAdvance i start resume s = s := by simp [opAdvance, h]

theorem opAdvance_start {i : Instr} {start resume : State → State} {s : State} (h : Idle s) (hp : precheck i s = none) :
    opAdvance i start resume s = start s := by simp [opAdvance, h.1, h.2, hp]

theorem opAdvance_fault {i : Instr} {start resume : State → State} {s : State} {f : FaultRecord} (h : Idle s)
    (hp : precheck i s = some f) : opAdvance i start resume s = raiseReqFault f (.op i) s := by
  simp [opAdvance, h.1, h.2, hp]

theorem opAdvance_resume {i : Instr} {start resume : State → State} {s : State} (h : HeldAt i s) :
    opAdvance i start resume s = resume s := by simp [opAdvance, h.1, h.2]

theorem opAdvance_other {i : Instr} {start resume : State → State} {s : State} {c : InProgress}
    (h : s.req.op = some c) (hc : c ≠ { issued := .op i, stage := 1 }) : opAdvance i start resume s = s := by
  simp [opAdvance, h, hc]

/-- Replacing `req.op` by itself changes nothing. -/
theorem setOp_self {s : State} {v : Option InProgress} (h : s.req.op = v) : s.setOp v = s := by
  subst h
  rfl

theorem awaitThen_pass {i : Instr} {effect : State → State} {s : State} (h : awaitHolds i s = true) :
    awaitThen i effect s = (effect s).setOp none := by simp [awaitThen, h]

/-- An operation held at an `await` whose condition does not hold stays as it is. -/
theorem awaitThen_still {i : Instr} {effect : State → State} {s : State} (h : awaitHolds i s = false) :
    awaitThen i effect s = s := by simp [awaitThen, h]

section
variable (i : Instr) (s : State)

@[simp] theorem holdAt_pins : (holdAt i s).pins = s.pins := rfl
@[simp] theorem holdAt_uart : (holdAt i s).uart = s.uart := rfl
@[simp] theorem holdAt_spi : (holdAt i s).spi = s.spi := rfl
@[simp] theorem holdAt_lt : (holdAt i s).lt = s.lt := rfl
@[simp] theorem holdAt_ft : (holdAt i s).ft = s.ft := rfl
@[simp] theorem holdAt_hist : (holdAt i s).hist = s.hist := rfl
@[simp] theorem holdAt_faults : (holdAt i s).faults = s.faults := rfl
@[simp] theorem holdAt_req :
    (holdAt i s).req = { s.req with op := some { issued := .op i, stage := 1 } } := rfl
@[simp] theorem holdAt_sched : (holdAt i s).sched = s.sched := rfl
@[simp] theorem holdAt_clock : (holdAt i s).clock = s.clock := rfl
@[simp] theorem holdAt_halted : halted (holdAt i s) = halted s := rfl

end

/-! ### Delivering a result -/

section
variable (v : Byte) (s : State)

@[simp] theorem deliver_pins : (deliver v s).pins = s.pins := by unfold deliver; split <;> rfl
@[simp] theorem deliver_uart : (deliver v s).uart = s.uart := by unfold deliver; split <;> rfl
@[simp] theorem deliver_spi : (deliver v s).spi = s.spi := by unfold deliver; split <;> rfl
@[simp] theorem deliver_lt : (deliver v s).lt = s.lt := by unfold deliver; split <;> rfl
@[simp] theorem deliver_ft : (deliver v s).ft = s.ft := by unfold deliver; split <;> rfl
@[simp] theorem deliver_hist : (deliver v s).hist = s.hist := by unfold deliver; split <;> rfl
@[simp] theorem deliver_faults : (deliver v s).faults = s.faults := by unfold deliver; split <;> rfl
@[simp] theorem deliver_sched : (deliver v s).sched = s.sched := by unfold deliver; split <;> rfl
@[simp] theorem deliver_clock : (deliver v s).clock = s.clock := by unfold deliver; split <;> rfl
@[simp] theorem deliver_op : (deliver v s).req.op = s.req.op := by unfold deliver; split <;> rfl
@[simp] theorem deliver_dst : (deliver v s).req.dst = s.req.dst := by unfold deliver; split <;> rfl
@[simp] theorem deliver_queue : (deliver v s).req.queue = s.req.queue := by unfold deliver; split <;> rfl

end

/-- A delivered result changes the requester's variables only. -/
theorem deliver_eq (v : Byte) (s : State) :
    deliver v s = { s with req := { s.req with x := (deliver v s).req.x } } := by
  unfold deliver; split <;> rfl

theorem deliver_discarded {v : Byte} {s : State} (h : s.req.dst = none) : (deliver v s).req.x = s.req.x := by
  simp [deliver, h]

/-- A delivered result stands in its destination, and no other variable changes. -/
theorem readVar_deliver {v : Byte} {s : State} {n : Nat} (h : s.req.dst = some n) (k : Nat) :
    readVar (deliver v s).req.x k = if k = n then v else readVar s.req.x k := by
  simp [deliver, h, readVar_writeVar]

theorem readVar_deliver_ne {v : Byte} {s : State} {k : Nat} (h : s.req.dst ≠ some k) :
    readVar (deliver v s).req.x k = readVar s.req.x k := by
  cases hd : s.req.dst with
  | none => rw [deliver_discarded hd]
  | some n =>
    have hk : k ≠ n := fun hk => h (hk ▸ hd)
    rw [readVar_deliver hd, if_neg hk]

theorem varsWf_deliver {v : Byte} {s : State} (h : varsWf s.req.x = true) : varsWf (deliver v s).req.x = true := by
  cases hd : s.req.dst with
  | none => rwa [deliver_discarded hd]
  | some n => simpa [deliver, hd] using varsWf_writeVar n v h

end Sys2Proof.Machine
end

