-- ==== Sys2Proof/Laws/Exec.lean ====
section
/-! SUPPORT. Every operation is one shape, for every parameters: its checks, its start, what follows its `await`
(`execWith_eq`); and everything an operation can do, once (`execWith_cases`). `exec` is the case of the machine's own parameters
(`exec_eq_execWith`). -/

namespace Sys2Proof.Machine

/-- The operation's last piece, or its whole effect where it has no `await`. -/
def effectOf (p : Params) (i : Instr) : State → State :=
  match i with
  | .pinInit => pinInit
  | .uartInit => uartInit
  | .spiInit => spiInit
  | .flickerStart => flickerStart p
  | .spiXfer _ => spiCollect
  | .latchWaitLow => fun t => t
  | .latchDisconnect => latchDisconnect
  | .latchTimerStop => latchTimerStop
  | .latchDriveHigh => latchDriveHigh
  | .latchArm => latchArm p
  | .latchRead => latchRead
  | .uartRecv => uartTake
  | .uartSend b => uartQueue b

/-- What the operation's issue does. -/
def startOf (p : Params) (i : Instr) : State → State :=
  match i with
  | .spiXfer b => fun t => holdAt (.spiXfer b) (spiStart b t)
  | .latchWaitLow => holdAt .latchWaitLow
  | .uartRecv => holdAt .uartRecv
  | .uartSend b => holdAt (.uartSend b)
  | other => effectOf p other

/-- What the operation does when it is held at its `await`. -/
def resumeOf (p : Params) (i : Instr) (s : State) : State := if waits i then awaitThen i (effectOf p i) s else s

/-- `exec` is the operation for the machine's own parameters. -/
theorem exec_eq_execWith (i : Instr) (s : State) : exec i s = execWith Config.params i s := by cases i <;> rfl

section
variable {p : Params}

/-- Every operation is the requester's step with its own start and resumption. -/
theorem execWith_eq (p : Params) (i : Instr) (s : State) :
    execWith p i s = .next (recordEdges s (opAdvance i (startOf p i) (resumeOf p i) s)) := by
  cases i <;> rfl

/-- Everything an operation can do. It answers a next state: the same state, with the requester halted or another operation in
progress; the fault of the first check that fails; the operation's start; or the piece after its `await`. -/
theorem execWith_cases {i : Instr} {s t : State} (h : execWith p i s = .next t) :
    (halted s = true ∧ t = s) ∨
    (Idle s ∧ ∃ f, precheck i s = some f ∧ t = raiseReqFault f (.op i) s) ∨
    (Idle s ∧ precheck i s = none ∧ t = recordEdges s (startOf p i s)) ∨
    (HeldAt i s ∧ t = recordEdges s (resumeOf p i s)) ∨
    (halted s = false ∧ (∃ c, s.req.op = some c ∧ c ≠ { issued := .op i, stage := 1 }) ∧ t = s) := by
  rw [execWith_eq] at h
  injection h with h
  subst h
  rcases opAdvance_cases i (startOf p i) (resumeOf p i) s with
    ⟨hh, e⟩ | ⟨hh, ho, ⟨f, hf, e⟩ | ⟨hp, e⟩⟩ | ⟨hh, e⟩ | ⟨hh, c, hc, hn, e⟩
  · exact .inl ⟨hh, by rw [e, recordEdges_self]⟩
  · exact .inr (.inl ⟨⟨hh, ho⟩, f, hf, by rw [e]; exact recordEdges_of_same rfl rfl rfl⟩)
  · exact .inr (.inr (.inl ⟨⟨hh, ho⟩, hp, by rw [e]⟩))
  · exact .inr (.inr (.inr (.inl ⟨hh, by rw [e]⟩)))
  · exact .inr (.inr (.inr (.inr ⟨hh, ⟨c, hc, hn⟩, by rw [e, recordEdges_self]⟩)))

/-- An operation always answers a next state. -/
theorem execWith_next (p : Params) (i : Instr) (s : State) : ∃ t, execWith p i s = .next t := ⟨_, execWith_eq p i s⟩

theorem exec_next (i : Instr) (s : State) : ∃ t, exec i s = .next t := by
  rw [exec_eq_execWith]
  exact execWith_next _ i s

theorem execWith_start {i : Instr} {s : State} (h : Idle s) (hp : precheck i s = none) :
    execWith p i s = .next (recordEdges s (startOf p i s)) := by rw [execWith_eq, opAdvance_start h hp]

theorem execWith_fault {i : Instr} {s : State} {f : FaultRecord} (h : Idle s) (hp : precheck i s = some f) :
    execWith p i s = .next (raiseReqFault f (.op i) s) := by
  rw [execWith_eq, opAdvance_fault h hp]
  exact congrArg _ (recordEdges_of_same rfl rfl rfl)

theorem execWith_resume {i : Instr} {s : State} (h : HeldAt i s) :
    execWith p i s = .next (recordEdges s (resumeOf p i s)) := by rw [execWith_eq, opAdvance_resume h]

theorem execWith_halted {i : Instr} {s : State} (h : halted s = true) : execWith p i s = .next s := by
  rw [execWith_eq, opAdvance_halted h, recordEdges_self]

theorem execWith_other {i : Instr} {s : State} {c : InProgress} (h : s.req.op = some c)
    (hc : c ≠ { issued := .op i, stage := 1 }) : execWith p i s = .next s := by
  rw [execWith_eq, opAdvance_other h hc, recordEdges_self]

/-- What every operation keeps: a property that writing `req.op` keeps, recording edges keeps, a REQ fault keeps, starting a
transfer keeps, and every operation's effect keeps. -/
theorem execWith_keeps {P : State → Prop} (hop : ∀ s v, P s → P (s.setOp v)) (hedges : ∀ s t, P t → P (recordEdges s t))
    (hfault : ∀ s i f, raisedByReq f = true → P s → P (raiseReqFault f (.op i) s)) (hspi : ∀ b s, P s → P (spiStart b s))
    (heffect : ∀ i s, P s → P (effectOf p i s)) (i : Instr) (s t : State) (h : P s) (hx : execWith p i s = .next t) : P t := by
  rcases execWith_cases hx with ⟨_, rfl⟩ | ⟨_, f, hp, rfl⟩ | ⟨_, _, rfl⟩ | ⟨_, rfl⟩ | ⟨_, _, rfl⟩
  · exact h
  · exact hfault _ _ _ (raisedByReq_of_precheck hp) h
  · refine hedges _ _ ?_
    cases i with
    | spiXfer b => exact hop _ _ (hspi b s h)
    | latchWaitLow => exact hop _ _ h
    | uartRecv => exact hop _ _ h
    | uartSend b => exact hop _ _ h
    | pinInit => exact heffect .pinInit s h
    | uartInit => exact heffect .uartInit s h
    | spiInit => exact heffect .spiInit s h
    | flickerStart => exact heffect .flickerStart s h
    | latchDisconnect => exact heffect .latchDisconnect s h
    | latchTimerStop => exact heffect .latchTimerStop s h
    | latchDriveHigh => exact heffect .latchDriveHigh s h
    | latchArm => exact heffect .latchArm s h
    | latchRead => exact heffect .latchRead s h
  · refine hedges _ _ ?_
    unfold resumeOf awaitThen
    repeat' split
    · exact hop _ _ (heffect i s h)
    · exact h
    · exact h
  · exact h

end

/-! ### What the pieces leave unchanged -/

section
variable (p : Params) (i : Instr) (s : State)

/-- The pieces of an operation touch neither the faults nor the model's own bookkeeping nor the histories. -/
theorem effectOf_frame :
    (effectOf p i s).faults = s.faults ∧ (effectOf p i s).sched = s.sched ∧ (effectOf p i s).clock = s.clock ∧
    (effectOf p i s).hist = s.hist ∧ (effectOf p i s).req.queue = s.req.queue ∧ (effectOf p i s).req.dst = s.req.dst ∧
    (effectOf p i s).req.op = s.req.op := by
  cases i <;> simp [effectOf, pinInit, uartInit, spiInit, flickerStart, spiCollect, latchDisconnect, latchTimerStop,
    latchDriveHigh, latchArm, latchRead, uartTake, uartQueue]
  split <;> simp

theorem startOf_frame :
    (startOf p i s).faults = s.faults ∧ (startOf p i s).sched = s.sched ∧ (startOf p i s).clock = s.clock ∧
    (startOf p i s).hist = s.hist ∧ (startOf p i s).req.queue = s.req.queue ∧ (startOf p i s).req.dst = s.req.dst := by
  have h := effectOf_frame p i s
  cases i <;> simp only [startOf, spiStart] <;> simp_all [effectOf]

theorem resumeOf_frame :
    (resumeOf p i s).faults = s.faults ∧ (resumeOf p i s).sched = s.sched ∧ (resumeOf p i s).clock = s.clock ∧
    (resumeOf p i s).hist = s.hist ∧ (resumeOf p i s).req.queue = s.req.queue ∧ (resumeOf p i s).req.dst = s.req.dst := by
  have h := effectOf_frame p i s
  unfold resumeOf awaitThen
  split
  · split <;> simp_all
  · simp

end

end Sys2Proof.Machine
end

