-- ==== Sys2Proof/Laws/PerInstr.lean ====
section
/-! SUPPORT. A law of every operation as syntax, one lemma a constructor: the word it is encoded to carries its code in bits 15:8
and its operand in bits 7:0, and an operation without operand has 0 there (30_encoding.md R80, R81). -/

namespace Sys2Proof.Laws.WordFields

/-- The fields of the operation's word. -/
def Statement (i : Instr) : Prop :=
  opByte (encode i) = codeOf i.name ∧ immByte (encode i) = i.imm ∧ (i.name.takesByte = false → i.imm = 0)

/-- The fields of a word put together from a code and an operand. -/
theorem fields_append (c b : Byte) : opByte (c ++ b) = c ∧ immByte (c ++ b) = b :=
  ⟨BitVec.extractLsb'_append_eq_left, BitVec.extractLsb'_append_eq_right⟩

theorem pinInit : Statement .pinInit := ⟨(fields_append _ _).1, (fields_append _ _).2, fun _ => rfl⟩
theorem uartInit : Statement .uartInit := ⟨(fields_append _ _).1, (fields_append _ _).2, fun _ => rfl⟩
theorem spiInit : Statement .spiInit := ⟨(fields_append _ _).1, (fields_append _ _).2, fun _ => rfl⟩
theorem flickerStart : Statement .flickerStart := ⟨(fields_append _ _).1, (fields_append _ _).2, fun _ => rfl⟩
theorem spiXfer (b : Byte) : Statement (.spiXfer b) := ⟨(fields_append _ _).1, (fields_append _ _).2, nofun⟩
theorem latchWaitLow : Statement .latchWaitLow := ⟨(fields_append _ _).1, (fields_append _ _).2, fun _ => rfl⟩
theorem latchDisconnect : Statement .latchDisconnect := ⟨(fields_append _ _).1, (fields_append _ _).2, fun _ => rfl⟩
theorem latchTimerStop : Statement .latchTimerStop := ⟨(fields_append _ _).1, (fields_append _ _).2, fun _ => rfl⟩
theorem latchDriveHigh : Statement .latchDriveHigh := ⟨(fields_append _ _).1, (fields_append _ _).2, fun _ => rfl⟩
theorem latchArm : Statement .latchArm := ⟨(fields_append _ _).1, (fields_append _ _).2, fun _ => rfl⟩
theorem latchRead : Statement .latchRead := ⟨(fields_append _ _).1, (fields_append _ _).2, fun _ => rfl⟩
theorem uartRecv : Statement .uartRecv := ⟨(fields_append _ _).1, (fields_append _ _).2, fun _ => rfl⟩
theorem uartSend (b : Byte) : Statement (.uartSend b) := ⟨(fields_append _ _).1, (fields_append _ _).2, nofun⟩

end Sys2Proof.Laws.WordFields
end

