-- ==== Sys2Proof/Laws/Step.lean ====
section
/-! SUPPORT. What an agent's step, the requester's move, a move and a step can do, each said once, for every parameters. -/

namespace Sys2Proof.Machine

variable {p : Params}

/-! ### Who moves -/

theorem nextMove_cons {s : State} {m : Move} {ms : List Move} (h : s.sched = m :: ms) : nextMove s = m := by
  simp [nextMove, h]

theorem useChoice_cons {s : State} {m : Move} {ms : List Move} (h : s.sched = m :: ms) :
    useChoice s = s.setSched ms := by simp [useChoice, h]

theorem nextMove_nil {s : State} (h : s.sched = []) : nextMove s = Config.freeMove s.clock := by simp [nextMove, h]

theorem useChoice_nil {s : State} (h : s.sched = []) : useChoice s = s.setClock (s.clock + 1) := by
  simp [useChoice, h]

/-- Using up a choice touches the model's own bookkeeping only. -/
theorem useChoice_frame (s : State) :
    (useChoice s).pins = s.pins ∧ (useChoice s).uart = s.uart ∧ (useChoice s).spi = s.spi ∧ (useChoice s).lt = s.lt ∧
    (useChoice s).ft = s.ft ∧ (useChoice s).hist = s.hist ∧ (useChoice s).faults = s.faults ∧
    (useChoice s).req = s.req := by
  unfold useChoice
  split <;> simp

/-! ### The requester's move -/

section
variable (r : Request) (rest : List Request) (s : State)

@[simp] theorem takeLine_pins : (takeLine r rest s).pins = s.pins := rfl
@[simp] theorem takeLine_uart : (takeLine r rest s).uart = s.uart := rfl
@[simp] theorem takeLine_spi : (takeLine r rest s).spi = s.spi := rfl
@[simp] theorem takeLine_lt : (takeLine r rest s).lt = s.lt := rfl
@[simp] theorem takeLine_ft : (takeLine r rest s).ft = s.ft := rfl
@[simp] theorem takeLine_hist : (takeLine r rest s).hist = s.hist := rfl
@[simp] theorem takeLine_faults : (takeLine r rest s).faults = s.faults := rfl
@[simp] theorem takeLine_req : (takeLine r rest s).req = { s.req with queue := rest, dst := r.dst } := rfl
@[simp] theorem takeLine_sched : (takeLine r rest s).sched = s.sched := rfl
@[simp] theorem takeLine_clock : (takeLine r rest s).clock = s.clock := rfl
@[simp] theorem takeLine_halted : halted (takeLine r rest s) = halted s := rfl
@[simp] theorem takeLine_level (q : Pin) : level (takeLine r rest s) q = level s q := level_congr rfl rfl rfl q

end

/-- Taking a line up leaves an idle requester idle. -/
theorem idle_takeLine {r : Request} {rest : List Request} {s : State} (h : Idle s) : Idle (takeLine r rest s) := h

/-- Everything the requester's move can do: nothing; its operation in progress goes on; its next line's operation runs; its next
line's word is illegal. -/
theorem reqStep_cases {s t : State} (h : reqStep p s = .next t) :
    t = s ∨
    (halted s = false ∧ ∃ i k, s.req.op = some { issued := .op i, stage := k } ∧ execWith p i s = .next t) ∨
    (Idle s ∧ ∃ r rest i, s.req.queue = r :: rest ∧ decode r.word = .ok i ∧ execWith p i (takeLine r rest s) = .next t) ∨
    (Idle s ∧ ∃ r rest e, s.req.queue = r :: rest ∧ decode r.word = .error e ∧
      t = raiseIllegal r.word (takeLine r rest s)) := by
  unfold reqStep reqAction at h
  cases hh : halted s with
  | true => simp [hh] at h; exact .inl h.symm
  | false =>
    simp only [hh, Bool.false_eq_true, if_false] at h
    cases hop : s.req.op with
    | some c =>
      obtain ⟨o, k⟩ := c
      cases o with
      | op i => simp only [hop] at h; exact .inr (.inl ⟨rfl, i, k, rfl, h⟩)
      | illegal w => simp only [hop] at h; injection h with h; exact .inl h.symm
    | none =>
      simp only [hop] at h
      cases hq : s.req.queue with
      | nil => simp only [hq] at h; injection h with h; exact .inl h.symm
      | cons r rest =>
        simp only [hq] at h
        cases hd : decode r.word with
        | ok i => simp only [hd] at h; exact .inr (.inr (.inl ⟨⟨hh, hop⟩, r, rest, i, rfl, hd, h⟩))
        | error e =>
          simp only [hd] at h
          injection h with h
          exact .inr (.inr (.inr ⟨⟨hh, hop⟩, r, rest, e, rfl, hd, h.symm⟩))

theorem reqStep_halted {s : State} (h : halted s = true) : reqStep p s = .next s := by simp [reqStep, reqAction, h]

theorem reqStep_held {s : State} {i : Instr} (h : HeldAt i s) : reqStep p s = execWith p i s := by
  simp [reqStep, reqAction, h.1, h.2]

theorem reqStep_line {s : State} {r : Request} {rest : List Request} {i : Instr} (h : Idle s)
    (hq : s.req.queue = r :: rest) (hd : decode r.word = .ok i) : reqStep p s = execWith p i (takeLine r rest s) := by
  simp [reqStep, reqAction, h.1, h.2, hq, hd]

theorem reqStep_illegal {s : State} {r : Request} {rest : List Request} {e : DecodeError} (h : Idle s)
    (hq : s.req.queue = r :: rest) (hd : decode r.word = .error e) :
    reqStep p s = .next (raiseIllegal r.word (takeLine r rest s)) := by
  simp [reqStep, reqAction, h.1, h.2, hq, hd]

/-- The requester's move always answers a next state. -/
theorem reqStep_next (p : Params) (s : State) : ∃ t, reqStep p s = .next t := by
  unfold reqStep
  split
  · exact ⟨_, rfl⟩
  · exact execWith_next _ _ _
  · exact ⟨_, rfl⟩

/-! ### A move and a step -/

theorem takeMove_req (s : State) : takeMove p .req s = reqStep p s := rfl

theorem takeMove_agent {m : Move} (h : m ≠ .req) (s : State) : takeMove p m s = .next (agentStep p m s) := by
  cases m <;> first | rfl | exact absurd rfl h

/-- Everything a move can do: the requester's move, or another agent's step. -/
theorem takeMove_cases {m : Move} {s t : State} (h : takeMove p m s = .next t) :
    (m = .req ∧ reqStep p s = .next t) ∨ (m ≠ .req ∧ t = agentStep p m s) := by
  by_cases hm : m = .req
  · subst hm
    exact .inl ⟨rfl, h⟩
  · rw [takeMove_agent hm] at h
    injection h with h
    exact .inr ⟨hm, h.symm⟩

/-- Every move answers a next state. -/
theorem takeMove_next (p : Params) (m : Move) (s : State) : ∃ t, takeMove p m s = .next t := by
  by_cases hm : m = .req
  · subst hm
    exact reqStep_next p s
  · exact ⟨_, takeMove_agent hm s⟩

/-- A step is some agent's move, once the choice of it is used up. -/
theorem stepWith_eq (s : State) : stepWith p s = takeMove p (nextMove s) (useChoice s) := rfl

/-- The machine's own step is the case of its own parameters. -/
theorem step_eq_stepWith (s : State) : step s = stepWith Config.params s := rfl

/-- What every step keeps: a property that using up a choice keeps, taking a line up keeps, an illegal word's fault keeps, every
other agent's step keeps, and every operation keeps. -/
theorem stepWith_keeps {P : State → Prop} (hchoice : ∀ s, P s → P (useChoice s))
    (hline : ∀ r rest s, Idle s → P s → P (takeLine r rest s)) (hill : ∀ w s, Idle s → P s → P (raiseIllegal w s))
    (hagent : ∀ m s, m ≠ .req → P s → P (agentStep p m s))
    (hexec : ∀ i s t, P s → execWith p i s = .next t → P t) {s t : State} (hs : P s) (h : stepWith p s = .next t) : P t := by
  rw [stepWith_eq] at h
  have hu := hchoice s hs
  rcases takeMove_cases h with ⟨_, h⟩ | ⟨hm, rfl⟩
  · rcases reqStep_cases h with rfl | ⟨_, i, _, _, h⟩ | ⟨hi, r, rest, i, _, _, h⟩ | ⟨hi, r, rest, e, _, _, rfl⟩
    · exact hu
    · exact hexec i _ _ hu h
    · exact hexec i _ _ (hline r rest _ hi hu) h
    · exact hill _ _ (idle_takeLine hi) (hline r rest _ hi hu)
  · exact hagent _ _ hm hu

/-- What the moves in a list keep, a run of them keeps. -/
theorem runMoves_keeps {P : State → Prop} {ms : List Move}
    (hk : ∀ m ∈ ms, ∀ s t, P s → takeMove p m s = .next t → P t) {s t : State} (hs : P s)
    (h : runMoves p ms s = .next t) : P t := by
  induction ms generalizing s with
  | nil =>
    injection h with h
    exact h ▸ hs
  | cons m rest ih =>
    obtain ⟨u, hu⟩ := takeMove_next p m s
    simp only [runMoves, hu] at h
    exact ih (fun m' hm' => hk m' (List.mem_cons_of_mem _ hm')) (hk m List.mem_cons_self s u hs hu) h

/-- A run of moves is the first move and then a run of the rest. -/
theorem runMoves_cons {m : Move} {ms : List Move} {s u : State} (h : takeMove p m s = .next u) :
    runMoves p (m :: ms) s = runMoves p ms u := by simp [runMoves, h]

/-- A run of two lists of moves is a run of the first and then of the second. -/
theorem runMoves_append {as bs : List Move} {s u : State} (h : runMoves p as s = .next u) :
    runMoves p (as ++ bs) s = runMoves p bs u := by
  induction as generalizing s with
  | nil =>
    injection h with h
    exact h ▸ rfl
  | cons m rest ih =>
    obtain ⟨v, hv⟩ := takeMove_next p m s
    rw [runMoves_cons hv] at h
    rw [List.cons_append, runMoves_cons hv]
    exact ih h

/-! ### The other agents -/

/-- Everything the transmitter's step can do. -/
theorem utxStep_cases (s : State) :
    (∃ x, s.uart.txShift = some x ∧ utxStep s = utxDone x s) ∨
    (s.uart.txShift = none ∧ s.uart.txEn = true ∧ ∃ x, s.uart.txBuf = some x ∧ utxStep s = utxLoad x s) ∨
    (moveEnabled .utx s = false ∧ utxStep s = s) := by
  unfold utxStep
  simp only [moveEnabled, utxLoadEnabled, utxDoneEnabled]
  cases s.uart.txShift <;> cases s.uart.txEn <;> cases s.uart.txBuf <;> simp

/-- Everything the engine's step can do. -/
theorem spieStep_cases (p : Params) (s : State) :
    (s.spi.en = true ∧ ∃ b, s.spi.shiftOut = some b ∧ spieStep p s = spieComplete p b s) ∨
    (moveEnabled .spie s = false ∧ spieStep p s = s) := by
  unfold spieStep
  simp only [moveEnabled, spieEnabled]
  cases s.spi.en <;> cases s.spi.shiftOut <;> simp

/-- Everything the latch timer's step can do. -/
theorem ltStep_cases (p : Params) (s : State) :
    (s.lt.run = true ∧ ltStep p s = s.setLt (latchTick p s.lt)) ∨ (s.lt.run = false ∧ ltStep p s = s) := by
  unfold ltStep
  cases s.lt.run <;> simp

/-- Everything the flicker timer's step can do. -/
theorem ftStep_cases (p : Params) (s : State) :
    (s.ft.run = true ∧ ftStep p s = s.setFt (flickerTick p s.ft)) ∨ (s.ft.run = false ∧ ftStep p s = s) := by
  unfold ftStep
  cases s.ft.run <;> simp

/-- Everything a frame's arrival can do. -/
theorem upFrame_cases (p : Params) (d : Byte) (ok : Bool) (s : State) :
    (s.uart.rxEn = false ∧ upFrame p d ok s = raiseFault (.rxWhileDisabled d) s) ∨
    (s.uart.rxEn = true ∧ ∃ u, (u = s ∧ ok = true ∨ u = raiseFault (.rxFramingError d) s ∧ ok = false) ∧
      ((s.uart.rxFifo.length = p.rxFifoDepth ∧ upFrame p d ok s = raiseFault (.rxOverrun d) u) ∨
        (s.uart.rxFifo.length ≠ p.rxFifoDepth ∧
          upFrame p d ok s = (u.setUart { u.uart with rxFifo := u.uart.rxFifo ++ [d] }).setHist
            { u.hist with serialIn := u.hist.serialIn ++ [d] }))) := by
  unfold upFrame
  cases hr : s.uart.rxEn with
  | false => simp
  | true =>
    refine .inr ⟨rfl, if ok then s else raiseFault (.rxFramingError d) s, ?_, ?_⟩
    · cases ok <;> simp
    · have hl : (if ok then s else raiseFault (.rxFramingError d) s).uart = s.uart := by cases ok <;> rfl
      unfold rxAccept
      by_cases hf : s.uart.rxFifo.length = p.rxFifoDepth <;> simp [hl, hf]

/-- A latch tick moves the counter and the output only. -/
theorem latchTick_frame (p : Params) (t : Timer) :
    latchTick p t = { t with cnt := (latchTick p t).cnt, oc := (latchTick p t).oc } := by
  unfold latchTick
  split <;> rfl

/-- A flicker tick moves the counter and the output only. -/
theorem flickerTick_frame (p : Params) (t : Timer) :
    flickerTick p t = { t with cnt := (flickerTick p t).cnt, oc := (flickerTick p t).oc } := by
  unfold flickerTick
  split <;> rfl

end Sys2Proof.Machine
end

