-- ==== Sys2Proof/Tests/Slice0.lean ====
section
/-! SUPPORT. The model's own tests. Expected results are those of 95_test_vectors.md (its row's id is in the test's name) or are
worked out by hand from the cited rule. After them, for every statement with hypotheses, a witness that meets them. -/

open Sys2Proof Sys2Proof.Machine

namespace Sys2Proof.Tests

/-! ### Helpers -/

/-- The answer is a next state that passes the check. -/
def answers (r : Result) (q : State → Bool) : Bool :=
  match r with
  | .next t => q t
  | .fault _ => false
  | .refused _ => false

/-- The next state of an answer; the state after reset where there is none. -/
def stateOf (r : Result) : State :=
  match r with
  | .next t => t
  | .fault _ => State.reset
  | .refused _ => State.reset

/-- Parameters for the vectors: the defaults with LATCH_CMP 3 and FLICKER_CMP 2, and the given chain. -/
def vp (chain : List Byte → Byte → Byte) : Params := Config.defaults 3 2 chain 1 1 1

/-- The state after PIN_INIT from reset (vector I-1), written from 40_init.md R101's example. -/
def afterPinInit : State :=
  { State.reset with
    pins :=
      { ddr := { PinBits.zero with txd := true, sck := true, mosi := true, ss := true, latch := true, flicker := true }
        port := { PinBits.zero with txd := true, rxd := true, miso := true }
        ready := true }
    hist := { State.reset.hist with edges := [⟨.latch, .low⟩, ⟨.flicker, .low⟩] } }

/-- `S_B` (95_test_vectors.md, Conventions), for a value of FLICKER_CMP. -/
def booted (flickerCmp : Nat) : State :=
  { afterPinInit with
    uart := { State.reset.uart with rxEn := true, txEn := true, configured := true }
    spi := { State.reset.spi with en := true }
    ft := { State.reset.ft with run := true, cmp := flickerCmp, connected := true } }

/-- `S_B` with FLICKER_CMP 2. -/
def sb : State := booted 2

/-- `S_B` with a latch timer and LATCH's port bit. -/
def latchAt (cnt cmp : Nat) (oc connected run port : Bool) : State :=
  setLatchPort
    { sb with lt := { run := run, cnt := cnt, cmp := cmp, connected := connected, oc := oc, ie := false } } port

/-- `s` with results going to `x[n]`. -/
def toVar (n : Nat) (s : State) : State := { s with req := { s.req with dst := some n } }

/-- `s` with `i` held at its `await`. -/
def held (i : Instr) (s : State) : State := s.setOp (some { issued := .op i, stage := 1 })

/-- `s` with that program and the coming choices of who moves. -/
def program (ws : List Word) (ms : List Move) (s : State) : State :=
  { s with req := { s.req with queue := ws.map (fun w => { word := w, dst := none }) }, sched := ms }

/-- `n` steps of one agent. -/
def ticks (p : Params) (m : Move) (n : Nat) (s : State) : State :=
  match n with
  | 0 => s
  | k + 1 => agentStep p m (ticks p m k s)

/-! ### Lines that are not well formed (30_encoding.md R87) -/

theorem test_wf_byte_on_an_operation_without_operand :
    Line.immOk ⟨.op .latchArm, some 1, none⟩ = false ∧ Line.wf ⟨.op .latchArm, some 1, none⟩ = false := by decide
theorem test_wf_byte_missing : Line.wf ⟨.op .uartSend, none, none⟩ = false := by decide
theorem test_wf_destination_without_result :
    Line.dstOk ⟨.op .uartSend, some 1, some 0⟩ = false ∧ Line.wf ⟨.op .uartSend, some 1, some 0⟩ = false := by decide
theorem test_wf_good_lines :
    Line.wf ⟨.op .spiXfer, some 1, some 0⟩ = true ∧ Line.wf ⟨.op .uartRecv, none, none⟩ = true ∧
      Line.wf ⟨.ack, none, none⟩ = true := by decide

/-! ### Decoding: words written out bit by bit from 30_encoding.md R80 and R81 -/

theorem test_decode_setup_words :
    decode 0b0000000100000000#16 = .ok .pinInit ∧ decode 0b0000001000000000#16 = .ok .uartInit ∧
    decode 0b0000001100000000#16 = .ok .spiInit ∧ decode 0b0000010000000000#16 = .ok .flickerStart := by decide
theorem test_decode_spi_words :
    decode 0b0001000000000000#16 = .ok (.spiXfer 0) ∧ decode 0b0001000011111111#16 = .ok (.spiXfer 255) ∧
    decode 0b0001000001010101#16 = .ok (.spiXfer 0x55) ∧ decode 0b0001000010000001#16 = .ok (.spiXfer 129) := by decide
theorem test_decode_latch_words :
    decode 0b0010000000000000#16 = .ok .latchWaitLow ∧ decode 0b0010000100000000#16 = .ok .latchDisconnect ∧
    decode 0b0010001000000000#16 = .ok .latchTimerStop ∧ decode 0b0010001100000000#16 = .ok .latchDriveHigh ∧
    decode 0b0010010000000000#16 = .ok .latchArm ∧ decode 0b0010010100000000#16 = .ok .latchRead := by decide
theorem test_decode_uart_words :
    decode 0b0011000000000000#16 = .ok .uartRecv ∧ decode 0b0011000100000000#16 = .ok (.uartSend 0) ∧
    decode 0b0011000111111111#16 = .ok (.uartSend 0xFF) ∧ decode 0b0011000101000001#16 = .ok (.uartSend 65) := by decide

/-- Vectors E-7 to E-12. -/
theorem test_decode_unknown_operations :
    [0x0000, 0x0500, 0x1100, 0x2600, 0x3200, 0xFFFF].map decode = List.replicate 6 (.error .unknownOp) := by decide
/-- Vectors E-13 to E-16. -/
theorem test_decode_operand_not_zero :
    [0x0101, 0x2480, 0x30FF, 0x0201].map decode = List.replicate 4 (.error .immNotZero) := by decide

theorem test_encode_words :
    encode .latchRead = 0x2500 ∧ encode (.spiXfer 0x33) = 0x1033 ∧ encode (.uartSend 0x41) = 0x3141 := by decide
theorem test_decode_table_word :
    decodeTableWord 16 0x2500 = some .latchRead ∧ decodeTableWord 16 0x1033 = some (.spiXfer 0x33) ∧
    decodeTableWord 16 0x0500 = none := by decide

/-! ### Assembly (30_encoding.md R87 to R90) -/

theorem test_assemble_byte_forms :
    assembleLine "SPI_XFER #0x55 -> x0".toList = .ok [0x1055] ∧
    assembleLine "again: UART_SEND #0b01000001 ; A".toList = .ok [0x3141] ∧
    assembleLine "UART_SEND #255".toList = .ok [0x31FF] := by decide
theorem test_assemble_pseudo_operations :
    assembleLine "LATCH_TRIGGER".toList = .ok [0x2000, 0x2100, 0x2200, 0x2300, 0x2400] ∧
    assembleLine "BOOT".toList = .ok [0x0100, 0x0200, 0x0300, 0x0400] ∧
    assembleLine "ACK".toList = .ok [0x31FF] := by decide
/-- Both spellings of a destination that the spec writes (41_spi.md R121, 95_test_vectors.md U-7). -/
theorem test_assemble_destinations :
    parseLine "UART_RECV -> x[12]".toList = .ok (some ⟨.op .uartRecv, none, some 12⟩) ∧
    parseLine "UART_RECV -> x12".toList = .ok (some ⟨.op .uartRecv, none, some 12⟩) ∧
    parseLine "UART_RECV -> x[12".toList = .error .badOperand ∧
    parseLine "UART_RECV -> x[]".toList = .error .badOperand := by decide
/-- The choices of entry 24: leading zeros, and lines without a mnemonic. -/
theorem test_assemble_choices :
    assembleLine "UART_SEND #007".toList = .ok [0x3107] ∧ assembleLine "UART_SEND #0256".toList = .error .badOperand ∧
    assembleLine "".toList = .ok [] ∧ assembleLine "loop: ; nothing".toList = .ok [] := by decide
theorem test_assemble_refuses :
    assembleLine "UART_SEND #256".toList = .error .badOperand ∧
    assembleLine "PIN_INIT #1".toList = .error .illFormed ∧
    assembleLine "NOP".toList = .error .unknownMnemonic := by decide

/-! ### A program from reset -/

/-- Program P1: BOOT takes reset to `S_B`. -/
theorem test_p1_boot :
    runMoves (vp noChain) [.req, .req, .req, .req] (program bootWords [] State.reset) = .next sb := rfl
/-- Vector I-16: the three setups in another order. -/
theorem test_i16_setup_order :
    runMoves (vp noChain) [.req, .req, .req] (program [0x0400, 0x0300, 0x0200] [] afterPinInit) = .next sb := rfl
theorem test_step_runs_fetched_word :
    answers (step (State.reset.withFetchWord 16 0x0100))
      (fun t => t.pins == afterPinInit.pins && t.req.op == none && t.req.queue == [] && t.sched == []) = true := by decide
/-- Vector E-7 and X-1: an illegal word. -/
theorem test_e7_illegal_word :
    answers (step (sb.withFetchWord 16 0))
      (fun t => t.faults == [.illegalOperation 0] && halted t &&
        t.req.op == some { issued := .illegal 0, stage := 0 } && t.pins == sb.pins) = true := by decide
/-- Vector E-16: decoding comes before the setup checks. -/
theorem test_e16_decode_first :
    answers (step (State.reset.withFetchWord 16 0x0201)) (fun t => t.faults == [.illegalOperation 0x0201]) = true := by
  decide

/-- 00_scope.md R7: steps with other legal parameters. Vector U-3 (depth 2), L-12 and L-14 (CLEAR, LATCH_CMP 0), L-16 (NORMAL). -/
theorem test_r7_other_parameters :
    answers (runMoves { vp noChain with rxFifoDepth := 2 } [.up 0x41 true, .up 0x42 true] sb)
      (fun t => t.uart.rxFifo == [0x41, 0x42] && t.faults == []) = true ∧
    answers (runMoves { vp noChain with latchAction := .clear, latchCmp := 0 } [.req, .lt, .lt]
        (program [0x2400] [] (latchAt 0 0 false false false true)))
      (fun t => t.hist.edges == sb.hist.edges ++ [⟨.latch, .low⟩]) = true ∧
    answers (stepWith { vp noChain with latchMode := .normal } (program [] [.lt] (latchAt 3 3 true true true true)))
      (fun t => t.lt.cnt == 4 && !t.lt.oc) = true := by decide

/-! ### Setup operations -/

/-- Vector I-1. -/
theorem test_i1_pin_init : exec .pinInit State.reset = .next afterPinInit := rfl
/-- Vector I-3: a second PIN_INIT with the flicker line high. -/
theorem test_i3_pin_init_again :
    answers (exec .pinInit { sb with ft := { sb.ft with oc := true } })
      (fun t => t == { sb with ft := { sb.ft with oc := true } } && level t .flicker == .high) = true := by decide
/-- Vector I-7. -/
theorem test_i7_uart_init :
    answers (exec .uartInit afterPinInit) (fun t => t.uart == sb.uart && !rxReady t && txReady t) = true := by decide
/-- Vectors I-4 and I-8. -/
theorem test_i4_i8_uart_init_faults :
    answers (exec .uartInit State.reset) (fun t => t.faults == [.notConfigured .uartInit .pins] && halted t) = true ∧
    answers (exec .uartInit sb) (fun t => t.faults == [.reconfigured .uartInit] && t.uart == sb.uart) = true := by decide
/-- Vector I-9. -/
theorem test_i9_spi_init :
    answers (exec .spiInit afterPinInit) (fun t => t.spi == sb.spi && t.pins == afterPinInit.pins) = true := by decide
/-- Vector I-10. -/
theorem test_i10_spi_init_again :
    answers (exec .spiInit sb) (fun t => t.faults == [.reconfigured .spiInit] && halted t) = true := by decide
/-- Vector I-11. -/
theorem test_i11_flicker_start :
    exec .flickerStart afterPinInit =
      .next { afterPinInit with ft := { afterPinInit.ft with
        cnt := 0, cmp := Config.params.flickerCmp, oc := false, connected := true, run := true } } := rfl
/-- Vector F-5. -/
theorem test_f5_flicker_start_again :
    answers (exec .flickerStart sb)
      (fun t => t.faults == [.reconfigured .flickerStart] && halted t && moveEnabled .ft t) = true := by decide

/-- Vectors I-5, I-6, I-13, I-14, I-15: which check fails first. -/
theorem test_common_checks :
    precheck .latchWaitLow State.reset = some (.notConfigured .latchWaitLow .pins) ∧
    precheck (.spiXfer 0x55) State.reset = some (.notConfigured .spiXfer .pins) ∧
    precheck (.spiXfer 0x55) afterPinInit = some (.notConfigured .spiXfer .spi) ∧
    precheck .uartRecv afterPinInit = some (.notConfigured .uartRecv .uart) ∧
    precheck (.uartSend 0x41) afterPinInit = some (.notConfigured .uartSend .uart) := by decide

/-! ### SPI -/

/-- Vector S-5. -/
theorem test_s5_spi_xfer_starts :
    answers (exec (.spiXfer 0xAB) sb)
      (fun t => t.spi.shiftOut == some 0xAB && !t.spi.done && t.hist == sb.hist &&
        t.req.op == some { issued := .op (.spiXfer 0xAB), stage := 1 }) = true := by decide
/-- Vector S-6. -/
theorem test_s6_spi_xfer_completes :
    answers (exec (.spiXfer 0xAB) (toVar 0 (agentStep (vp (shiftChain 3 [1, 2, 3])) .spie (stateOf (exec (.spiXfer 0xAB) sb)))))
      (fun t => t.hist.busOut == [0xAB] && t.hist.busIn == [1] && t.spi.rx == 1 && !t.spi.done && t.spi.shiftOut == none &&
        t.req.op == none && t.req.x == [(0, 1)]) = true := by decide
/-- Vectors S-1 and S-3: the chains. -/
theorem test_s1_shift_chain :
    let t := [0x55, 0x33, 0x0F].foldl (busTransfer (vp (shiftChain 2 [0xA1, 0xA2]))) sb
    t.hist.busIn = [0xA1, 0xA2, 0x55] ∧ t.hist.busOut = [0x55, 0x33, 0x0F] ∧ t.spi.rx = 0x55 := by decide
theorem test_s3_no_chain :
    ([0x00, 0xFF, 0x55].foldl (busTransfer (vp noChain)) sb).hist.busIn = [0xFF, 0xFF, 0xFF] := by decide
/-! ### Latch -/

/-- Vectors L-1 and L-2: issued, then passing on a low line and still held on a high one. -/
theorem test_l1_l2_latch_wait :
    exec .latchWaitLow sb = .next (held .latchWaitLow sb) ∧ exec .latchWaitLow (held .latchWaitLow sb) = .next sb ∧
    exec .latchWaitLow (held .latchWaitLow (latchAt 1 3 true true true true)) =
      .next (held .latchWaitLow (latchAt 1 3 true true true true)) := ⟨rfl, rfl, rfl⟩
/-- Vector L-2, its third tick: the line falls and the operation passes. -/
theorem test_l2_latch_wait_passes :
    answers (exec .latchWaitLow (ticks (vp noChain) .lt 3 (held .latchWaitLow (latchAt 1 3 true true true true))))
      (fun t => t.req.op == none && t.lt.cnt == 0 && !t.lt.oc &&
        t.hist.edges == sb.hist.edges ++ [⟨.latch, .low⟩]) = true := by decide
/-- Vectors L-5 and L-6. -/
theorem test_l5_latch_disconnect_low :
    answers (exec .latchDisconnect (latchAt 0 3 false true true true))
      (fun t => !t.pins.port.latch && !t.lt.connected && t.hist.edges == sb.hist.edges) = true := by decide
theorem test_l6_latch_disconnect_high :
    answers (exec .latchDisconnect (latchAt 2 3 true true true true))
      (fun t => level t .latch == .low && t.hist.edges == sb.hist.edges ++ [⟨.latch, .low⟩]) = true := by decide
/-- Vector L-7. -/
theorem test_l7_latch_timer_stop :
    exec .latchTimerStop (latchAt 2 3 false false true false) = .next (latchAt 2 3 false false false false) := rfl
/-- Vectors L-8 and L-9. -/
theorem test_l8_latch_drive_high :
    answers (exec .latchDriveHigh sb)
      (fun t => t.pins.port.latch && latchState t == .latching && t.hist.edges == sb.hist.edges ++ [⟨.latch, .high⟩]) = true := by
  decide
theorem test_l9_latch_drive_high_connected :
    answers (exec .latchDriveHigh (latchAt 1 3 false true true false))
      (fun t => t.pins.port.latch && level t .latch == .low && t.hist.edges == sb.hist.edges) = true := by decide
/-- Vector L-10: arming, with the machine's own LATCH_CMP. -/
theorem test_l10_latch_arm :
    exec .latchArm (latchAt 0 0 false false false true) = .next (latchAt 0 Config.params.latchCmp true true true true) := rfl
/-- Vectors L-10 and L-11: tick 4 lowers the line, tick 8 raises it again. -/
theorem test_l10_l11_ticks :
    let s := latchAt 0 3 true true true true
    (ticks (vp noChain) .lt 3 s).lt.oc = true ∧ (ticks (vp noChain) .lt 3 s).lt.cnt = 3 ∧
    (ticks (vp noChain) .lt 4 s).hist.edges = sb.hist.edges ++ [⟨.latch, .low⟩] ∧
    (ticks (vp noChain) .lt 8 s).hist.edges = sb.hist.edges ++ [⟨.latch, .low⟩, ⟨.latch, .high⟩] := by decide
/-- Vector L-12: CLEAR. -/
theorem test_l12_clear :
    (ticks { vp noChain with latchAction := .clear } .lt 8 (latchAt 0 3 true true true true)).hist.edges =
      sb.hist.edges ++ [⟨.latch, .low⟩] := by decide
/-- Vector L-16, its fourth and fifth tick: NORMAL does not clear the counter. -/
theorem test_l16_normal_mode :
    (ticks { vp noChain with latchMode := .normal } .lt 5 (latchAt 0 3 true true true true)).lt =
      { run := true, cnt := 5, cmp := 3, connected := true, oc := false, ie := false } := by decide
/-- Vector L-16: the counter wraps at its width. -/
theorem test_l16_wrap :
    (ltStep { vp noChain with latchMode := .normal } (latchAt 255 3 false true true true)).lt.cnt = 0 := by decide
/-- Vector L-17: a compare event while disconnected. -/
theorem test_l17_disconnected_compare :
    ticks (vp noChain) .lt 3 (latchAt 1 3 false false true false) = latchAt 0 3 false false true false := by decide
/-- Vectors L-18 and L-19. -/
theorem test_l18_l19_latch_read :
    answers (exec .latchRead (toVar 0 (latchAt 0 3 true true true true))) (fun t => t.req.x == [(0, 1)]) = true ∧
    answers (exec .latchRead (toVar 0 (latchAt 0 3 false true true true))) (fun t => t.req.x == []) = true := by decide
/-- Vectors L-21 and L-22: the race. -/
theorem test_l21_l22_race :
    answers (exec .latchDisconnect (agentStep (vp noChain) .lt (latchAt 3 3 false true true true)))
      (fun t => t.hist.edges == sb.hist.edges ++ [⟨.latch, .high⟩, ⟨.latch, .low⟩]) = true ∧
    answers (exec .latchDisconnect
        (agentStep { vp noChain with latchAction := .clear } .lt (latchAt 3 3 false true true true)))
      (fun t => t.hist.edges == sb.hist.edges) = true := by decide

/-! ### Flicker -/

/-- Vector F-1. -/
theorem test_f1_flicker :
    (ticks (vp noChain) .ft 9 sb).hist.edges =
      sb.hist.edges ++ [⟨.flicker, .high⟩, ⟨.flicker, .low⟩, ⟨.flicker, .high⟩] ∧
    (ticks (vp noChain) .ft 2 sb).ft.cnt = 2 ∧ (ticks (vp noChain) .ft 3 sb).ft.cnt = 0 := by decide
/-- Vector F-2. -/
theorem test_f2_flicker_every_tick :
    (ticks (vp noChain) .ft 3 (booted 0)).hist.edges =
      sb.hist.edges ++ [⟨.flicker, .high⟩, ⟨.flicker, .low⟩, ⟨.flicker, .high⟩] := by decide

/-! ### UART -/

/-- Vectors U-2 and U-3. -/
theorem test_u2_u3_overrun :
    let two := fun p : Params => agentStep p (.up 0x42 true) (agentStep p (.up 0x41 true) sb)
    (two (vp noChain)).faults = [.rxOverrun 0x42] ∧ (two (vp noChain)).hist.serialIn = [0x41] ∧
    (two { vp noChain with rxFifoDepth := 2 }).uart.rxFifo = [0x41, 0x42] := by decide
/-- Vectors U-4 and U-5. -/
theorem test_u4_u5_framing :
    (agentStep (vp noChain) (.up 0x13 false) sb).uart.rxFifo = [0x13] ∧
    (agentStep (vp noChain) (.up 0x13 false) sb).faults = [.rxFramingError 0x13] ∧
    (agentStep (vp noChain) (.up 0x13 false) (agentStep (vp noChain) (.up 0x41 true) sb)).faults =
      [.rxFramingError 0x13, .rxOverrun 0x13] := by decide
/-- Vector U-6. -/
theorem test_u6_not_set_up :
    agentStep (vp noChain) (.up 0x41 true) afterPinInit = { afterPinInit with faults := [.rxWhileDisabled 0x41] } := by
  decide
/-- Vector U-7. -/
theorem test_u7_uart_recv :
    answers (exec .uartRecv (held .uartRecv (toVar 0 (agentStep (vp noChain) (.up 0x01 true) sb))))
      (fun t => t.req.x == [(0, 1)] && t.uart.rxFifo == [] && t.req.op == none) = true := by decide
/-- Vectors U-8 and U-9: held, then passing. -/
theorem test_u8_u9_uart_recv_held :
    answers (exec .uartRecv (toVar 0 sb)) (fun t => t == held .uartRecv (toVar 0 sb)) = true ∧
    answers (exec .uartRecv (agentStep (vp noChain) (.up 0xFF true) (held .uartRecv (toVar 0 sb))))
      (fun t => t.req.x == [(0, 0xFF)] && t.req.op == none) = true := by decide
/-- Vector U-11. -/
theorem test_u11_uart_send :
    let t := stateOf (exec (.uartSend 0xFF) (held (.uartSend 0xFF) sb))
    t.uart.txBuf = some 0xFF ∧ (utxStep t).uart.txBuf = none ∧ (utxStep t).uart.txShift = some 0xFF ∧
    (utxStep (utxStep t)).hist.serialOut = [0xFF] ∧ (utxStep (utxStep t)).uart.txShift = none := by decide
/-- Vector U-12, its third send: held behind a full buffer. -/
theorem test_u12_uart_send_held :
    let s := { sb with uart := { sb.uart with txBuf := some 0x42, txShift := some 0x41 } }
    exec (.uartSend 0x43) s = .next (held (.uartSend 0x43) s) ∧
    exec (.uartSend 0x43) (held (.uartSend 0x43) s) = .next (held (.uartSend 0x43) s) := ⟨rfl, rfl⟩
/-- Vector X-3: after REQ's halt the UART keeps working. -/
theorem test_x3_units_go_on :
    let t := stateOf (exec .uartInit sb)
    (agentStep (vp noChain) (.up 0x41 true) t).uart.rxFifo = [0x41] ∧ exec .pinInit t = .next t := ⟨by decide, rfl⟩

/-- 60_exceptions.md R211: the codes. -/
theorem test_fault_codes :
    [FaultRecord.illegalOperation 0, .notConfigured .uartInit .pins, .reconfigured .uartInit, .rxOverrun 0,
      .rxFramingError 0, .rxWhileDisabled 0].map faultCode = [1, 2, 3, 4, 5, 6] := by decide

/-- 43_uart.md R180: the frame of 'A', 0x41. -/
theorem test_uart_frame :
    uartFrame 0x41 true = [false, true, false, false, false, false, false, true, false, true] := by decide
/-- 20_memory.md R61: most significant bit first. -/
theorem test_spi_bits :
    spiBits .msbFirst 0x0F = [false, false, false, false, true, true, true, true] ∧
    (spiWave false .msbFirst 0x80).take 3 = [(true, true), (false, true), (true, false)] := by decide

/-! ### Witnesses: for each statement with hypotheses, states and operands that meet them together, clause by clause -/

/-- A halted state: a second UART_INIT from `S_B`. -/
def halt1 : State := stateOf (exec .uartInit sb)

/-- `S_B` with 0xAB's transfer in flight (vector S-5). -/
def inFlight : State := stateOf (exec (.spiXfer 0xAB) sb)

/-- `S_B` with 0xAB's transfer complete (vector S-6), its result going to `x0`. -/
def complete : State := toVar 0 (agentStep (vp noChain) .spie inFlight)

theorem witness_EncodeOfDecode :
    decode 0x10FF = .ok (.spiXfer 0xFF) ∧ decode 0x3100 = .ok (.uartSend 0) ∧ decode 0x0100 = .ok .pinInit := by decide

/-- Each clause of DecodeChecksInOrder at the ends of its range. -/
theorem witness_DecodeChecksInOrder :
    let codes : List Nat := [0x01, 0x02, 0x03, 0x04, 0x10, 0x20, 0x21, 0x22, 0x23, 0x24, 0x25, 0x30, 0x31]
    ((0x0000#16).toNat / 256 ∉ codes ∧ (0x26FF#16).toNat / 256 ∉ codes ∧ (0xFFFF#16).toNat / 256 ∉ codes) ∧
    ((0x0101#16).toNat / 256 ∈ codes ∧ (0x0101#16).toNat / 256 ∉ [0x10, 0x31] ∧ (0x0101#16).toNat % 256 ≠ 0) ∧
    ((0x30FF#16).toNat / 256 ∈ codes ∧ (0x30FF#16).toNat / 256 ∉ [0x10, 0x31] ∧ (0x30FF#16).toNat % 256 ≠ 0) ∧
    ((0x3000#16).toNat / 256 ∈ codes ∧ (0x3000#16).toNat % 256 = 0) ∧
    ((0x10FF#16).toNat / 256 ∈ codes ∧ (0x10FF#16).toNat / 256 ∈ [0x10, 0x31]) := by decide

/-- Legal parameters, with the compare values at both ends of their range. -/
theorem witness_Legal (a b : BitVec 8) : (Config.defaults a b noChain 1 1 1).Legal :=
  ⟨Nat.succ_pos _, Nat.le_refl _, Nat.one_pos, Nat.succ_pos _, a.isLt, Nat.one_pos, Nat.succ_pos _, b.isLt, Nat.one_pos⟩
theorem witness_ResetMeetsInvariants : (vp noChain).Legal ∧ (Config.defaults 255 0 noChain 1 1 1).Legal :=
  ⟨witness_Legal 3 2, witness_Legal 255 0⟩

theorem setupShape_reset : SetupShape State.reset :=
  ⟨fun _ => by decide, nofun, by decide, fun _ => by decide, fun _ => by decide, rfl⟩
theorem setupShape_sb : SetupShape sb := ⟨nofun, fun _ => by decide, by decide, nofun, nofun, rfl⟩
theorem setupShape_inFlight : SetupShape inFlight := ⟨nofun, fun _ => by decide, by decide, nofun, nofun, rfl⟩

theorem witness_BeforePinInitOnlyUpSteps :
    SetupShape State.reset ∧ State.reset.pins.ready = false ∧ Move.up 0x41 true ≠ .req ∧
    moveEnabled (.up 0x41 true) State.reset = true := ⟨setupShape_reset, by decide⟩

/-- A new line, an operation held, another agent's turn, no choice left. -/
theorem witness_StepRunsDecodedOperation :
    (let s := program [0x3141] [.req] sb;
      s.sched = [.req] ∧ Idle s ∧ s.req.queue = [{ word := 0x3141, dst := none }] ∧ decode 0x3141 = .ok (.uartSend 0x41)) ∧
    ({ inFlight with sched := [Move.req] }.sched = [.req] ∧ HeldAt (.spiXfer 0xAB) { inFlight with sched := [Move.req] }) ∧
    ({ sb with sched := [Move.ft] }.sched = [.ft] ∧ Move.ft ≠ .req) ∧ sb.sched = [] := by decide

/-- A step that moves both timed lines, for the statements about every step. -/
theorem witness_EdgesRecordLevelChanges : stepWith (vp noChain) (program [0x0100] [.req] State.reset) = .next afterPinInit := rfl
theorem witness_FaultsAndHistoriesOnlyGrow :
    stepWith (vp noChain) (program [] [.up 0x41 true] afterPinInit) = .next { afterPinInit with faults := [.rxWhileDisabled 0x41] } := rfl


theorem witness_CommonChecksInOrder :
    (Idle State.reset ∧ Instr.latchWaitLow ≠ .pinInit ∧ State.reset.pins.ready = false) ∧
    (Idle sb ∧ sb.pins.ready = true ∧ sb.uart.configured = true ∧ sb.spi.en = true ∧ sb.ft.run = true) ∧
    (Idle afterPinInit ∧ afterPinInit.pins.ready = true ∧ afterPinInit.uart.configured = false ∧
      afterPinInit.spi.en = false ∧ afterPinInit.ft.run = false) ∧
    (Idle sb ∧ exec .latchTimerStop sb = .next sb ∧ (Instr.latchTimerStop = .pinInit ∨ sb.pins.ready = true)) :=
  ⟨by decide, by decide, by decide, by decide, rfl, by decide⟩

theorem witness_IllegalWordHaltsRequester :
    let s := program [0x2480] [] sb
    Idle s ∧ s.req.queue = [{ word := 0x2480, dst := none }] ∧ decode 0x2480 = .error .immNotZero := by decide

theorem witness_HaltedRequesterNeverMoves :
    halted halt1 = true ∧
    runMoves (vp noChain) [.req, .up 0x41 true] halt1 = .next (agentStep (vp noChain) (.up 0x41 true) halt1) := ⟨by decide, rfl⟩

theorem witness_OperationInProgressBlocksOthers :
    inFlight.req.op = some { issued := .op (.spiXfer 0xAB), stage := 1 } ∧
    ({ issued := .op (.spiXfer 0xAB), stage := 1 } : InProgress) ≠ { issued := .op .uartRecv, stage := 1 } ∧
    takeMove (vp noChain) .req inFlight = .next inFlight := ⟨by decide, by decide, rfl⟩

theorem witness_NoInterruptEverPending : EnablesZero sb ∧ stepWith (vp noChain) (program [] [.lt] sb) = .next sb := ⟨by decide, rfl⟩

/-- Each setup operation where it executes normally, and PIN_INIT again. -/
theorem witness_PinInitResult : Idle State.reset ∧ Idle sb ∧ SetupShape sb ∧ sb.pins.ready = true :=
  ⟨by decide, by decide, setupShape_sb, by decide⟩
theorem witness_UartInitAndSpiInitResult :
    Idle afterPinInit ∧ afterPinInit.pins.ready = true ∧ afterPinInit.uart.configured = false ∧
    afterPinInit.spi.en = false := by decide
theorem witness_FlickerStartResult :
    Idle afterPinInit ∧ afterPinInit.pins.ready = true ∧ afterPinInit.ft.run = false ∧ level afterPinInit .flicker = .low := by
  decide
theorem witness_SetupFrame :
    Instr.uartInit ∈ [Instr.pinInit, .uartInit, .spiInit, .flickerStart] ∧ exec .uartInit sb = .next halt1 ∧
    exec .pinInit State.reset = .next afterPinInit := ⟨by decide, rfl, rfl⟩

theorem witness_SpiXferResult :
    (Idle sb ∧ sb.pins.ready = true ∧ sb.spi.en = true) ∧ (HeldAt (.spiXfer 0xAB) inFlight ∧ inFlight.spi.done = false) ∧
    (HeldAt (.spiXfer 0xAB) complete ∧ complete.spi.done = true ∧ complete.req.dst = some 0) := by decide
theorem witness_SpiXferFrame : exec (.spiXfer 0xAB) sb = .next inFlight := rfl

theorem spiProtocol_inFlight : SpiProtocol inFlight :=
  ⟨fun b h => by cases h; exact ⟨rfl, rfl⟩, nofun, fun b h => by cases h; exact .inl rfl⟩
theorem spiProtocol_complete : SpiProtocol complete :=
  ⟨nofun, fun _ => ⟨rfl, 0xAB, by decide⟩, fun _ _ => .inr rfl⟩
theorem spiProtocol_sb : SpiProtocol sb := ⟨nofun, nofun, nofun⟩

theorem witness_EngineStepCompletesTransfer :
    (inFlight.spi.en = true ∧ inFlight.spi.shiftOut = some 0xAB) ∧ SpiProtocol inFlight ∧ Move.req ≠ .spie ∧
    takeMove (vp noChain) .req inFlight = .next inFlight := ⟨by decide, spiProtocol_inFlight, by decide, rfl⟩
theorem witness_StepKeepsSpiProtocol :
    SpiProtocol sb ∧ stepWith (vp noChain) (program [0x10AB] [.req] sb) = .next inFlight ∧ SpiProtocol (program [0x10AB] [.req] sb) :=
  ⟨spiProtocol_sb, rfl, ⟨nofun, nofun, nofun⟩⟩
theorem witness_SpiXferReturnsAfterTransfer :
    SpiProtocol complete ∧ HeldAt (.spiXfer 0xAB) complete ∧ complete.req.dst = some 0 ∧
    ∃ t, exec (.spiXfer 0xAB) complete = .next t ∧ t.req.op = none :=
  ⟨spiProtocol_complete, by decide, by decide, _, rfl, rfl⟩
theorem witness_BusBytesFollowTransfers :
    SpiProtocol (program [0x10AB] [] sb) ∧ takeMove (vp noChain) .req (program [0x10AB] [] sb) = .next inFlight :=
  ⟨⟨nofun, nofun, nofun⟩, rfl⟩
theorem witness_ReferenceChainsAnswer :
    1 ≤ 2 ∧ ([0xA1, 0xA2] : List Byte).length = 2 ∧ (vp (shiftChain 2 [0xA1, 0xA2])).chain = shiftChain 2 [0xA1, 0xA2] ∧
    sb.spi.en = true ∧ sb.hist.busOut = [] ∧ sb.hist.busIn = [] ∧ (vp noChain).chain = noChain :=
  ⟨by decide, by decide, rfl, by decide, by decide, by decide, rfl⟩
theorem witness_SelectLineNeverMoves :
    stepWith (vp noChain) (program [] [.lt] sb) = .next sb ∧ SetupShape (program [] [.lt] sb) ∧ (program [] [.lt] sb).pins.ready = true :=
  ⟨rfl, ⟨nofun, fun _ => by decide, by decide, nofun, nofun, rfl⟩, by decide⟩

/-- The wait on a low line and on a high one, starting and held. -/
theorem witness_LatchWaitLowResult :
    (Idle sb ∧ sb.pins.ready = true ∧ level sb .latch = .low) ∧
    (let s := latchAt 1 3 true true true true;
      (Idle s ∧ s.pins.ready = true ∧ level s .latch ≠ .low) ∧
      HeldAt .latchWaitLow (held .latchWaitLow s) ∧ level (held .latchWaitLow s) .latch ≠ .low) ∧
    HeldAt .latchWaitLow (held .latchWaitLow sb) ∧ level (held .latchWaitLow sb) .latch = .low := by decide
theorem witness_LatchDisconnectResult :
    let s := latchAt 2 3 true true true true
    Idle s ∧ s.pins.ready = true ∧ s.pins.ddr.latch = true ∧ answers (exec .latchDisconnect s) (fun _ => true) = true := by
  decide
theorem witness_LatchTimerStopResult :
    Idle (latchAt 2 3 false false true false) ∧ (latchAt 2 3 false false true false).pins.ready = true := by decide
/-- LATCH_DRIVE_HIGH connected, and disconnected from a low line. -/
theorem witness_LatchDriveHighResult :
    (let s := latchAt 1 3 false true true false;
      Idle s ∧ s.pins.ready = true ∧ s.lt.connected = true ∧ exec .latchDriveHigh s = .next (setLatchPort s true)) ∧
    Idle sb ∧ sb.pins.ready = true ∧ sb.lt.connected = false ∧ sb.pins.ddr.latch = true ∧ level sb .latch = .low ∧
    answers (exec .latchDriveHigh sb) (fun _ => true) = true :=
  ⟨⟨by decide, by decide, by decide, rfl⟩, by decide⟩
theorem witness_LatchArmResult :
    let s := latchAt 0 0 false false false true
    Idle s ∧ s.pins.ready = true ∧ s.lt.connected = false := by decide
theorem witness_LatchReadResult :
    let s := toVar 0 (latchAt 0 3 true true true true)
    Idle s ∧ s.pins.ready = true ∧ s.req.dst = some 0 ∧ level s .latch = .high := by decide
theorem witness_LatchFrame :
    Instr.latchTimerStop ∈ [Instr.latchWaitLow, .latchDisconnect, .latchTimerStop, .latchDriveHigh, .latchArm, .latchRead] ∧
    exec .latchTimerStop (latchAt 2 3 false false true false) = .next (latchAt 2 3 false false false false) :=
  ⟨by decide, rfl⟩
/-- A tick that counts, a compare event connected and one disconnected. -/
theorem witness_LatchTickRule :
    (let s := latchAt 2 3 true true true true;
      s.lt.run = true ∧ s.lt.cnt ≠ s.lt.cmp) ∧
    (let s := latchAt 3 3 true true true true;
      s.lt.run = true ∧ s.lt.cnt = s.lt.cmp ∧ s.lt.connected = true) ∧
    (vp noChain).latchAction = .toggle ∧ (vp noChain).latchMode = .ctc ∧
    { vp noChain with latchAction := LatchAction.clear }.latchAction = .clear ∧
    { vp noChain with latchMode := LatchMode.normal }.latchMode = .normal ∧
    (let s := latchAt 3 3 false false true false;
      s.lt.run = true ∧ s.lt.connected = false ∧ s.lt.cnt = s.lt.cmp) := by decide
/-- An armed timer, and tick counts below, at and past the first compare event. -/
theorem witness_LatchOutputAfterArm :
    let t := (latchAt 0 3 true true true true).lt
    (vp noChain).Legal ∧ t.cnt = 0 ∧ t.cmp = (vp noChain).latchCmp ∧ t.oc = true ∧ t.connected = true ∧
    3 ≤ (vp noChain).latchCmp ∧ 4 = (vp noChain).latchCmp + 1 ∧ (vp noChain).latchCmp < 4 :=
  ⟨witness_Legal 3 2, by decide⟩
/-- The five latch states' starting points. -/
theorem witness_LatchStatesThroughTrigger :
    (∀ s ∈ [sb, latchAt 1 3 false true true true, latchAt 1 3 false false true false, latchAt 0 0 false false false true],
      Idle s ∧ s.pins.ready = true) ∧
    latchState sb = .disconnectedIdle ∧ latchState (latchAt 1 3 false true true true) = .running ∧
    latchState (latchAt 1 3 false false true false) = .transient ∧
    (latchAt 1 3 false false true false).lt.connected = false ∧
    latchState (latchAt 0 0 false false false true) = .latching := by decide
/-- LATCH_TRIGGER from disconnected-idle: no tick after (5), or all the ticks to the compare event. -/
theorem witness_LatchTriggerMakesOnePulse :
    let s := program latchTriggerWords [] sb
    (vp noChain).Legal ∧ Idle s ∧ s.pins.ready = true ∧ s.pins.ddr.latch = true ∧ level s .latch = .low ∧
    CountersFit (vp noChain) s ∧ (s.lt.run = true → s.lt.cnt + 2 + 3 ≤ s.lt.cmp) ∧
    s.req.queue.map Request.word = latchTriggerWords ∧
    0 ≤ (vp noChain).latchCmp + 1 ∧ 4 = (vp noChain).latchCmp + 1 :=
  ⟨witness_Legal 3 2, by decide, by decide, by decide, by decide, ⟨by decide, by decide, by decide, by decide⟩, by decide,
    by decide, by decide, by decide⟩
/-- The same while the counter still runs from an earlier trigger, three ticks before its next compare event. -/
theorem witness_LatchTriggerMakesOnePulse_running :
    let s := program latchTriggerWords [] (latchAt 0 3 false true true true)
    Idle s ∧ s.pins.ready = true ∧ level s .latch = .low ∧ CountersFit (vp noChain) s ∧
    s.lt.run = true ∧ s.lt.cnt + 1 + 2 ≤ s.lt.cmp :=
  ⟨by decide, by decide, by decide, ⟨by decide, by decide, by decide, by decide⟩, by decide, by decide⟩
theorem witness_CompareEventRacesTrigger :
    let s := latchAt 3 3 false true true true
    Idle s ∧ s.pins.ready = true ∧ s.pins.ddr.latch = true ∧ s.lt.run = true ∧ s.lt.connected = true ∧
    s.lt.oc = false ∧ s.lt.cnt = s.lt.cmp := by decide
/-- Vectors L-3 and L-4. -/
theorem witness_WaitsNeverTimeOut_stuck_line :
    (let s := held .latchWaitLow (latchAt 0 0 false false false true);
      HeldAt .latchWaitLow s ∧ level s .latch = .high ∧ s.lt.connected = false ∧ runMoves (vp noChain) [.req, .lt] s = .next s) ∧
    (let s := held .latchWaitLow (latchAt 2 3 true true false false);
      HeldAt .latchWaitLow s ∧ level s .latch = .high ∧ s.lt.run = false ∧ runMoves (vp noChain) [.req, .lt] s = .next s) :=
  ⟨⟨by decide, by decide, by decide, rfl⟩, ⟨by decide, by decide, by decide, rfl⟩⟩

theorem witness_FlickerTickRule :
    sb.ft.run = true ∧ sb.ft.cnt ≠ sb.ft.cmp ∧ (booted 0).ft.run = true ∧ (booted 0).ft.cnt = (booted 0).ft.cmp ∧
    (program [] [.lt] sb).ft.run = true ∧ stepWith (vp noChain) (program [] [.lt] sb) = .next sb :=
  ⟨by decide, by decide, by decide, by decide, by decide, rfl⟩
theorem witness_FlickerOutputAfterTicks :
    (vp noChain).Legal ∧ sb.ft.cnt = 0 ∧ sb.ft.cmp = (vp noChain).flickerCmp ∧ sb.ft.oc = false ∧ sb.ft.connected = true :=
  ⟨witness_Legal 3 2, by decide⟩
theorem witness_FlickerIndependentOfAllElse :
    SetupShape sb ∧ sb.ft.run = true ∧ Move.lt ≠ .ft ∧ takeMove (vp noChain) .lt sb = .next sb := ⟨setupShape_sb, by decide, by decide, rfl⟩

/-- The three cases of a frame's arrival. -/
theorem witness_FrameArrivalRule :
    afterPinInit.uart.rxEn = false ∧ (sb.uart.rxEn = true ∧ sb.uart.rxFifo.length ≠ (vp noChain).rxFifoDepth) ∧
    (let s := agentStep (vp noChain) (.up 0x41 true) sb;
      s.uart.rxEn = true ∧ s.uart.rxFifo.length = (vp noChain).rxFifoDepth) := by decide
theorem witness_UartRecvResult :
    (let s := toVar 0 (agentStep (vp noChain) (.up 0x41 true) sb);
      (Idle s ∧ s.pins.ready = true ∧ s.uart.configured = true ∧ s.uart.rxFifo = [0x41] ∧ s.req.dst = some 0) ∧
      HeldAt .uartRecv (held .uartRecv s)) ∧
    HeldAt .uartRecv (held .uartRecv sb) ∧ (held .uartRecv sb).uart.rxFifo = [] := by decide
theorem witness_UartSendResult :
    (Idle sb ∧ sb.pins.ready = true ∧ sb.uart.configured = true ∧ sb.uart.txBuf = none) ∧
    HeldAt (.uartSend 0x42) (held (.uartSend 0x42) sb) ∧
    (let s := held (.uartSend 0x42) (uartQueue 0x41 sb);
      HeldAt (.uartSend 0x42) s ∧ s.uart.txBuf ≠ none) := by decide
theorem witness_UartFrame :
    exec .uartRecv sb = .next (held .uartRecv sb) ∧
    exec (.uartSend 0x41) (held (.uartSend 0x41) sb) = .next (uartQueue 0x41 sb) := ⟨rfl, rfl⟩
theorem witness_TransmitterSteps :
    ((uartQueue 0x41 sb).uart.txEn = true ∧ (uartQueue 0x41 sb).uart.txShift = none ∧
      (uartQueue 0x41 sb).uart.txBuf = some 0x41) ∧
    (utxStep (uartQueue 0x41 sb)).uart.txShift = some 0x41 := by decide
theorem witness_SentBytesFollowSends :
    takeMove (vp noChain) .req (held (.uartSend 0x41) sb) = .next (uartQueue 0x41 sb) := rfl
theorem witness_AgentFrame :
    (Move.ft ≠ .req ∧ moveEnabled .ft afterPinInit = false) ∧ Move.utx ≠ .lt ∧ Move.utx ≠ .ft ∧ Move.utx ≠ .spie ∧ Move.spie ≠ .utx ∧
    (∀ d ok, Move.lt ≠ .up d ok) := ⟨by decide, by decide, by decide, by decide, by decide, nofun⟩

theorem witness_CountersStayWithinWidth :
    (vp noChain).Legal ∧ CountersFit (vp noChain) (latchAt 255 255 true true true true) ∧
    CountersFit (vp noChain) (program [] [.lt] sb) ∧ stepWith (vp noChain) (program [] [.lt] sb) = .next sb :=
  ⟨witness_Legal 3 2, ⟨by decide, by decide, by decide, by decide⟩, ⟨by decide, by decide, by decide, by decide⟩, rfl⟩
theorem witness_StepKeepsComparesFixed :
    ComparesFixed (vp noChain) (program [0x0100] [.req] State.reset) ∧
    stepWith (vp noChain) (program [0x0100] [.req] State.reset) = .next afterPinInit :=
  ⟨⟨.inl rfl, .inl rfl, nofun, nofun, fun _ => Nat.le_refl _, Nat.le_refl _⟩, rfl⟩
theorem witness_StepKeepsSetupAndRequester :
    SetupShape (program [0x0100] [.req] State.reset) ∧ ReqShape (program [0x0100] [.req] State.reset) ∧
    stepWith (vp noChain) (program [0x0100] [.req] State.reset) = .next afterPinInit :=
  ⟨⟨fun _ => by decide, nofun, by decide, fun _ => by decide, fun _ => by decide, rfl⟩,
    (rfl : halted State.reset = false), rfl⟩
theorem witness_StepKeepsBooks :
    BooksKept (vp noChain) (program [] [.lt] sb) ∧ stepWith (vp noChain) (program [] [.lt] sb) = .next sb :=
  ⟨⟨by decide, by decide, by decide, by decide, by decide⟩, rfl⟩
theorem witness_StepKeepsEdgesTelling :
    EdgesTell (program [0x0100] [.req] State.reset) ∧ EdgesTell afterPinInit ∧
    stepWith (vp noChain) (program [0x0100] [.req] State.reset) = .next afterPinInit := ⟨by decide, by decide, rfl⟩

/-- A waiting operation of each kind, held, with moves that leave out the agent it waits for. -/
theorem witness_WaitsNeverTimeOut :
    (HeldAt (.spiXfer 0xAB) inFlight ∧ inFlight.spi.done = false ∧ Move.spie ∉ [Move.req, .lt] ∧
      runMoves (vp noChain) [.req, .lt] inFlight = .next inFlight) ∧
    (let s := held .latchWaitLow (latchAt 2 3 true true false false);
      HeldAt .latchWaitLow s ∧ level s .latch ≠ .low ∧ Move.lt ∉ [Move.req, .utx] ∧ runMoves (vp noChain) [.req, .utx] s = .next s) ∧
    (HeldAt .uartRecv (held .uartRecv sb) ∧ sb.uart.rxFifo = [] ∧ (∀ d ok, Move.up d ok ∉ [Move.req, .lt]) ∧
      runMoves (vp noChain) [.req, .lt] (held .uartRecv sb) = .next (held .uartRecv sb)) ∧
    (let s := held (.uartSend 0x42) (uartQueue 0x41 sb);
      HeldAt (.uartSend 0x42) s ∧ s.uart.txBuf ≠ none ∧ Move.utx ∉ [Move.req, .lt] ∧ runMoves (vp noChain) [.req, .lt] s = .next s) :=
  ⟨⟨by decide, by decide, by decide, rfl⟩, ⟨by decide, by decide, by decide, rfl⟩,
    ⟨by decide, by decide, fun d ok => by simp, rfl⟩, ⟨by decide, by decide, by decide, rfl⟩⟩

/-! ### A fair run: every agent in turn -/

/-- The agent whose turn it is in the fair run. -/
def turn (n : Nat) : Move := [Move.req, .utx, .spie, .lt, .ft].getD (n % 5) .req

/-- The states of the run from `s` in which the agents take turns. -/
def turnState (s : State) (n : Nat) : State :=
  match n with
  | 0 => s
  | k + 1 => stateOf (takeMove (vp noChain) (turn k) (turnState s k))

/-- The run from `s` in which the agents take turns. -/
def turns (s : State) : Execution (vp noChain) where
  states := turnState s
  moves := turn
  ok n := by
    obtain ⟨t, h⟩ := takeMove_next (vp noChain) (turn n) (turnState s n)
    rw [h, turnState, h]
    rfl

/-- In it every agent moves again and again. -/
theorem fair_of_turn {m : Move} {j : Nat} (hj : j < 5) (h : turn j = m) (s : State) : (turns s).Fair m := by
  intro n _
  refine ⟨5 * n + j, by omega, ?_⟩
  have hm : (5 * n + j) % 5 = j % 5 := by omega
  rw [← h]
  simp [turns, turn, hm]

theorem witness_FairSpiTransferCompletes :
    (turns inFlight).FairSpi ∧ (turns inFlight).FairReq ∧ SetupShape ((turns inFlight).states 0) ∧
    SpiProtocol ((turns inFlight).states 0) ∧ HeldAt (.spiXfer 0xAB) ((turns inFlight).states 0) :=
  ⟨fair_of_turn (j := 2) (by decide) rfl _, fair_of_turn (j := 0) (by decide) rfl _, setupShape_inFlight,
    spiProtocol_inFlight, by decide⟩
theorem witness_FairTransmitterSendsQueuedByte :
    (turns (uartQueue 0x41 sb)).FairTx ∧ ((turns (uartQueue 0x41 sb)).states 0).uart.txEn = true ∧
    ((turns (uartQueue 0x41 sb)).states 0).uart.txBuf = some 0x41 :=
  ⟨fair_of_turn (j := 1) (by decide) rfl _, by decide, by decide⟩
theorem witness_FairTimersKeepFlickering :
    (turns sb).FairTimers ∧ ((turns sb).states 0).ft.run = true ∧ ((turns sb).states 0).ft.connected = true ∧
    ((turns sb).states 0).pins.ddr.flicker = true ∧ CountersFit (vp noChain) ((turns sb).states 0) :=
  ⟨⟨fair_of_turn (j := 3) (by decide) rfl _, fair_of_turn (j := 4) (by decide) rfl _⟩, by decide, by decide, by decide,
    ⟨by decide, by decide, by decide, by decide⟩⟩


/-- The first and the last bit of 0x0F: bits 0 and 7 on the UART line, and cycles 0 and 7 of an SPI transfer. -/
theorem witness_LinesCarryTheByte :
    0 < 8 ∧ 7 < 8 ∧ (uartFrame 0x0F true)[0 + 1]? = some true ∧ (uartFrame 0x0F true)[7 + 1]? = some false ∧
    (spiWave false .msbFirst 0x0F)[2 * 0]? = some (true, false) ∧
    (spiWave false .msbFirst 0x0F)[2 * 7 + 1]? = some (false, true) := by decide

end Sys2Proof.Tests
end

/-! ### What every step keeps of the books (10_state.md R27, R29, R32, R50) -/

namespace Sys2Proof.Machine

section
variable {p : Params} {s t : State}

/-- The fields that `BooksKept` speaks of. -/
def books (s : State) : List Byte × List Byte × List Byte × List Byte × List FaultRecord × List Host.Cell :=
  (s.uart.rxFifo, s.hist.serialIn, s.hist.busIn, s.hist.busOut, s.faults, s.req.x)

/-- The books are read from `books` alone, so an update of any other field keeps them. -/
theorem BooksKept.congr (h : BooksKept p s) (hb : books t = books s) : BooksKept p t := by
  simp only [books, Prod.mk.injEq] at hb
  obtain ⟨hfifo, hserial, hin, hout, hfaults, hx⟩ := hb
  exact ⟨hfifo ▸ h.fifoDepth, hfifo ▸ hserial ▸ h.fifoOrder, hin ▸ hout ▸ h.busPairs, hfaults ▸ h.faultsSet, hx ▸ h.vars⟩

theorem BooksKept.raiseFault (h : BooksKept p s) (f : FaultRecord) : BooksKept p (raiseFault f s) :=
  { h with faultsSet := nodup_addFault h.faultsSet }

theorem BooksKept.raiseReqFault (h : BooksKept p s) (f : FaultRecord) (o : Issued) : BooksKept p (raiseReqFault f o s) :=
  (h.raiseFault f).congr rfl

theorem BooksKept.deliver (h : BooksKept p s) (v : Byte) : BooksKept p (deliver v s) := by
  rw [deliver_eq]
  exact { h with vars := varsWf_deliver h.vars }

/-- UART_RECV takes the FIFO's oldest byte, so a suffix of it is left (43_uart.md R186). -/
theorem BooksKept.uartTake (h : BooksKept p s) : BooksKept p (uartTake s) := by
  unfold Machine.uartTake
  split
  case h_1 d rest hq =>
    have hrest : rest <:+ s.uart.rxFifo := hq ▸ List.suffix_cons d rest
    have htail : BooksKept p (s.setUart { s.uart with rxFifo := rest }) :=
      { h with
        fifoDepth := hrest.length_le.trans h.fifoDepth
        fifoOrder := hrest.trans h.fifoOrder }
    exact htail.deliver d
  case h_2 => exact h

/-- A completed transfer adds one byte to each side of the bus (41_spi.md R122). -/
theorem BooksKept.spieComplete (h : BooksKept p s) (b : Byte) : BooksKept p (spieComplete p b s) :=
  { h with busPairs := by simp [Machine.spieComplete, h.busPairs] }

/-- A byte accepted into a FIFO with room goes last there and last in the history (43_uart.md R182). -/
theorem BooksKept.accept (h : BooksKept p s) (d : Byte) (hroom : s.uart.rxFifo.length ≠ p.rxFifoDepth) :
    BooksKept p ((s.setUart { s.uart with rxFifo := s.uart.rxFifo ++ [d] }).setHist
      { s.hist with serialIn := s.hist.serialIn ++ [d] }) where
  fifoDepth := by
    have := h.fifoDepth
    simp only [setHist_uart, setUart_uart, List.length_append, List.length_singleton]
    omega
  fifoOrder := by
    obtain ⟨older, holder⟩ := h.fifoOrder
    exact ⟨older, by simp [← holder]⟩
  busPairs := h.busPairs
  faultsSet := h.faultsSet
  vars := h.vars

/-- A frame leaves the books kept, whether it is lost, accepted with its framing fault, or accepted (43_uart.md R182). -/
theorem BooksKept.upFrame (h : BooksKept p s) (d : Byte) (ok : Bool) : BooksKept p (upFrame p d ok s) := by
  rcases upFrame_cases p d ok s with ⟨-, e⟩ | ⟨-, u, hu, hcase⟩
  · exact e ▸ h.raiseFault _
  · have hbooks : BooksKept p u ∧ u.uart = s.uart := by
      rcases hu with ⟨rfl, -⟩ | ⟨rfl, -⟩
      · exact ⟨h, rfl⟩
      · exact ⟨h.raiseFault _, rfl⟩
    obtain ⟨hku, hfifo⟩ := hbooks
    rcases hcase with ⟨-, e⟩ | ⟨hroom, e⟩
    · exact e ▸ hku.raiseFault _
    · exact e ▸ hku.accept d (hfifo ▸ hroom)

theorem BooksKept.agentEffect (h : BooksKept p s) (m : Move) : BooksKept p (agentEffect p m s) := by
  cases m with
  | req => exact h
  | utx =>
    show BooksKept p (utxStep s)
    rcases utxStep_cases s with ⟨x, -, e⟩ | ⟨-, -, x, -, e⟩ | ⟨-, e⟩ <;> (rw [e]; exact h.congr rfl)
  | spie =>
    show BooksKept p (spieStep p s)
    rcases spieStep_cases p s with ⟨-, b, -, e⟩ | ⟨-, e⟩ <;> rw [e]
    · exact h.spieComplete b
    · exact h
  | lt =>
    show BooksKept p (ltStep p s)
    rcases ltStep_cases p s with ⟨-, e⟩ | ⟨-, e⟩ <;> (rw [e]; exact h.congr rfl)
  | ft =>
    show BooksKept p (ftStep p s)
    rcases ftStep_cases p s with ⟨-, e⟩ | ⟨-, e⟩ <;> (rw [e]; exact h.congr rfl)
  | up d ok => exact h.upFrame d ok

theorem BooksKept.agentStep (h : BooksKept p s) (m : Move) : BooksKept p (agentStep p m s) :=
  (h.agentEffect m).congr rfl

/-- Of the operations only the three with a result and UART_RECV's removal touch the books. -/
theorem BooksKept.effectOf (h : BooksKept p s) (i : Instr) : BooksKept p (effectOf p i s) := by
  cases i with
  | spiXfer _ =>
    have hdone : BooksKept p (s.setSpi { s.spi with done := false }) := h.congr rfl
    exact hdone.deliver _
  | latchRead => exact h.deliver _
  | uartRecv => exact h.uartTake
  | pinInit | uartInit | spiInit | flickerStart | latchWaitLow | latchDisconnect | latchTimerStop | latchDriveHigh
  | latchArm | uartSend _ => exact h.congr rfl

theorem BooksKept.execWith {i : Instr} (h : BooksKept p s) (hx : execWith p i s = .next t) : BooksKept p t :=
  execWith_keeps (P := BooksKept p)
    (hop := fun _ _ h => h.congr rfl) (hedges := fun _ _ h => h.congr rfl)
    (hfault := fun _ _ f _ h => h.raiseReqFault f _) (hspi := fun _ _ h => h.congr rfl)
    (heffect := fun i _ h => h.effectOf i) i s t h hx

theorem BooksKept.useChoice (h : BooksKept p s) : BooksKept p (useChoice s) := by
  obtain ⟨-, huart, -, -, -, hhist, hfaults, hreq⟩ := useChoice_frame s
  exact h.congr (by simp [books, huart, hhist, hfaults, hreq])

theorem BooksKept.stepWith (h : BooksKept p s) (hx : stepWith p s = .next t) : BooksKept p t :=
  stepWith_keeps (P := BooksKept p)
    (hchoice := fun _ h => h.useChoice) (hline := fun _ _ _ _ h => h.congr rfl)
    (hill := fun _ _ _ h => h.raiseReqFault _ _) (hagent := fun m _ _ h => h.agentStep m)
    (hexec := fun _ _ _ h hx => h.execWith hx) h hx

end

/-- Settles O54: each update of a field in `books` keeps `BooksKept`, and every step is made of such updates. -/
theorem stepKeepsBooks : Obligations.StepKeepsBooks :=
  ⟨fun _ m _ h => h.agentStep m, fun _ _ _ h hx => h.stepWith hx⟩

/-! ### LATCH_ARM and FLICKER_START (42_latch_flicker.md R145, 40_init.md R104) -/

section
variable (p : Params) (s : State)

@[simp] theorem level_latch_setFt (v : Timer) : level (s.setFt v) .latch = level s .latch := by simp [level_latch]

@[simp] theorem level_flicker_setLt (v : Timer) : level (s.setLt v) .flicker = level s .flicker := by
  simp [level_flicker]

variable {s}

/-- LATCH_ARM takes the compare output from the port bit, which drove the disconnected line (42_latch_flicker.md R145). -/
theorem level_latch_latchArm (h : s.lt.connected = false) : level (latchArm p s) .latch = level s .latch := by
  simp [level_latch, latchArm, h]

/-- FLICKER_START connects a compare output of 0, so a low line stays low (40_init.md R104). -/
theorem level_flicker_flickerStart (h : level s .flicker = .low) : level (flickerStart p s) .flicker = .low := by
  have hddr : s.pins.ddr.flicker = true := by
    by_contra hz
    simp [level_flicker, Bool.eq_false_of_not_eq_true hz] at h
  simp [level_flicker, flickerStart, hddr]

theorem recordEdges_latchArm (h : s.lt.connected = false) : recordEdges s (latchArm p s) = latchArm p s :=
  recordEdges_of_level_eq (level_latch_latchArm p h).symm (level_flicker_setLt s _).symm

theorem recordEdges_flickerStart (h : level s .flicker = .low) : recordEdges s (flickerStart p s) = flickerStart p s :=
  recordEdges_of_level_eq (level_latch_setFt s _).symm (h.trans (level_flicker_flickerStart p h).symm)

theorem execWith_latchArm (h : Idle s) (hr : s.pins.ready = true) :
    execWith p .latchArm s = .next (recordEdges s (latchArm p s)) :=
  execWith_start h ((precheck_eq_none _ _).mpr (by simp [Instr.name, hr]))

theorem execWith_flickerStart (h : Idle s) (hr : s.pins.ready = true) (hf : s.ft.run = false) :
    execWith p .flickerStart s = .next (recordEdges s (flickerStart p s)) :=
  execWith_start h ((precheck_eq_none _ _).mpr (by simp [Instr.name, hr, hf]))

end

/-- Settles O33: the checks pass, so the step is LATCH_ARM's writes, which move no line that was disconnected. -/
theorem latchArmResult : Obligations.LatchArmResult := by
  intro s hidle hready
  refine ⟨?_, fun p => ⟨execWith_latchArm p hidle hready, fun hdis => ⟨?_, level_latch_latchArm p hdis⟩⟩⟩
  · rw [exec_eq_execWith]
    exact execWith_latchArm _ hidle hready
  · rw [execWith_latchArm p hidle hready, recordEdges_latchArm p hdis]
    rfl

/-- Settles O19: the checks pass, so the step is FLICKER_START's writes, which leave a low line low. -/
theorem flickerStartResult : Obligations.FlickerStartResult := by
  intro s hidle hready hrun
  refine ⟨?_, fun p => ⟨execWith_flickerStart p hidle hready hrun, fun hlow => ?_⟩⟩
  · rw [exec_eq_execWith]
    exact execWith_flickerStart _ hidle hready hrun
  · rw [execWith_flickerStart p hidle hready hrun, recordEdges_flickerStart p hlow]
    rfl

/-! ### Whose turn it is (10_state.md R21, R22, R41) -/

section
variable {p : Params} {s : State} {m : Move} {ms : List Move}

/-- With a choice left in the state, a step is the chosen agent's move. -/
theorem stepWith_cons (h : s.sched = m :: ms) : stepWith p s = takeMove p m (s.setSched ms) := by
  rw [stepWith_eq, nextMove_cons h, useChoice_cons h]

/-- With none left, a step is the move of a freely chosen agent. -/
theorem stepWith_nil (h : s.sched = []) : stepWith p s = takeMove p (Config.freeMove s.clock) (s.setClock (s.clock + 1)) := by
  rw [stepWith_eq, nextMove_nil h, useChoice_nil h]

theorem stepWith_line {r : Request} {rest : List Request} {i : Instr} (h : s.sched = .req :: ms) (hidle : Idle s)
    (hq : s.req.queue = r :: rest) (hd : decode r.word = .ok i) :
    stepWith p s = execWith p i (takeLine r rest (s.setSched ms)) := by
  have hidle' : Idle (s.setSched ms) := hidle
  rw [stepWith_cons h, takeMove_req, reqStep_line hidle' hq hd]

theorem stepWith_held {i : Instr} (h : s.sched = .req :: ms) (hheld : HeldAt i s) :
    stepWith p s = execWith p i (s.setSched ms) := by
  have hheld' : HeldAt i (s.setSched ms) := hheld
  rw [stepWith_cons h, takeMove_req, reqStep_held hheld']

end

/-- Settles O8: one clause for each kind of turn; `step` and `exec` are the case of the machine's own parameters. -/
theorem stepRunsDecodedOperation : Obligations.StepRunsDecodedOperation := by
  refine ⟨?line, ?held, ?agent, fun _ _ hsched => stepWith_nil hsched, step_eq_stepWith, exec_eq_execWith⟩
  case line =>
    intro s ms r rest i hsched hidle hq hd u
    exact ⟨(stepWith_line hsched hidle hq hd).trans (exec_eq_execWith i u).symm, fun _ => stepWith_line hsched hidle hq hd⟩
  case held =>
    intro s ms i hsched hheld
    exact ⟨(stepWith_held hsched hheld).trans (exec_eq_execWith i _).symm, fun _ => stepWith_held hsched hheld⟩
  case agent =>
    intro s m ms hsched hm p
    exact (stepWith_cons hsched).trans (takeMove_agent hm _)

end Sys2Proof.Machine

namespace Sys2Proof.Machine

/-! ### The state at power-on (10_state.md R51) -/

/-- Settles O5: every entry of the table is read off `State.reset`, line by line and source by source where it says so. -/
theorem resetValues : Obligations.ResetValues := by
  refine ⟨fun q => ?lines, rfl, rfl, rfl, rfl, rfl, rfl, rfl, rfl, rfl, rfl, rfl, rfl, rfl, rfl, rfl, rfl, rfl, rfl, rfl, rfl,
    fun q => ?enables, rfl, rfl, rfl, rfl, rfl, rfl, rfl⟩
  case lines => cases q <;> exact ⟨rfl, rfl, rfl⟩
  case enables => cases q <;> rfl

theorem countersFit_reset (p : Params) : CountersFit p State.reset :=
  ⟨Nat.two_pow_pos _, Nat.two_pow_pos _, Nat.two_pow_pos _, Nat.two_pow_pos _⟩

theorem comparesFixed_reset (p : Params) : ComparesFixed p State.reset where
  ltCmp := .inl rfl
  ftCmp := .inl rfl
  ltRun := nofun
  ftRun := nofun
  ltCnt := fun _ => Nat.le_refl 0
  ftCnt := Nat.le_refl 0

theorem setupShape_reset : SetupShape State.reset where
  before := fun _ => ⟨rfl, rfl, rfl, rfl, rfl, rfl, rfl⟩
  after := nofun
  uartOn := ⟨rfl, rfl⟩
  uartOff := fun _ => ⟨rfl, rfl, rfl⟩
  spiOff := fun _ => ⟨rfl, rfl⟩
  flicker := rfl

theorem spiProtocol_reset : SpiProtocol State.reset := ⟨nofun, nofun, nofun⟩

theorem booksKept_reset (p : Params) : BooksKept p State.reset where
  fifoDepth := Nat.zero_le _
  fifoOrder := List.suffix_refl []
  busPairs := rfl
  faultsSet := List.nodup_nil
  vars := rfl

/-- Settles O6: each invariant holds of `State.reset`, where every unit is off and every history is empty. -/
theorem resetMeetsInvariants : Obligations.ResetMeetsInvariants :=
  ⟨⟨rfl, rfl, rfl, rfl, rfl⟩, fun p _ => countersFit_reset p, comparesFixed_reset, rfl, setupShape_reset, spiProtocol_reset,
    booksKept_reset, ⟨rfl, rfl⟩⟩

/-! ### What each agent's step changes (10_state.md R22) -/

section
variable (p : Params) (s : State)

/-- UTX changes its two buffers and may add to what was sent (43_uart.md R188, R189). -/
theorem utxStep_changes : ∃ buf shift sent, utxStep s =
    { s with
      uart := { s.uart with txBuf := buf, txShift := shift }
      hist := { s.hist with serialOut := s.hist.serialOut ++ sent } } := by
  rcases utxStep_cases s with ⟨x, -, e⟩ | ⟨-, -, x, -, e⟩ | ⟨-, e⟩ <;> rw [e]
  · exact ⟨s.uart.txBuf, none, [x], rfl⟩
  · exact ⟨none, some x, [], by simp [utxLoad, State.setUart]⟩
  · exact ⟨s.uart.txBuf, s.uart.txShift, [], by simp⟩

/-- SPIE changes the transfer's fields and may add to both sides of the bus (41_spi.md R122). -/
theorem spieStep_changes : ∃ shift done rx sent got, spieStep p s =
    { s with
      spi := { s.spi with shiftOut := shift, done := done, rx := rx }
      hist := { s.hist with busOut := s.hist.busOut ++ sent, busIn := s.hist.busIn ++ got } } := by
  rcases spieStep_cases p s with ⟨-, b, -, e⟩ | ⟨-, e⟩ <;> rw [e]
  · exact ⟨none, true, p.chain s.hist.busOut b, [b], [p.chain s.hist.busOut b], rfl⟩
  · exact ⟨s.spi.shiftOut, s.spi.done, s.spi.rx, [], [], by simp⟩

/-- LT changes the latch timer's counter and output (42_latch_flicker.md R160). -/
theorem ltStep_changes : ∃ cnt oc, ltStep p s = { s with lt := { s.lt with cnt := cnt, oc := oc } } := by
  rcases ltStep_cases p s with ⟨-, e⟩ | ⟨-, e⟩ <;> rw [e]
  · exact ⟨_, _, congrArg s.setLt (latchTick_frame p s.lt)⟩
  · exact ⟨s.lt.cnt, s.lt.oc, rfl⟩

/-- FT changes the flicker timer's counter and output (42_latch_flicker.md R170). -/
theorem ftStep_changes : ∃ cnt oc, ftStep p s = { s with ft := { s.ft with cnt := cnt, oc := oc } } := by
  rcases ftStep_cases p s with ⟨-, e⟩ | ⟨-, e⟩ <;> rw [e]
  · exact ⟨_, _, congrArg s.setFt (flickerTick_frame p s.ft)⟩
  · exact ⟨s.ft.cnt, s.ft.oc, rfl⟩

/-- A frame changes the FIFO, and may add to what was received and to the faults (43_uart.md R182). -/
theorem upFrame_changes (d : Byte) (ok : Bool) : ∃ fifo got faults, s.faults <+: faults ∧ upFrame p d ok s =
    { s with
      uart := { s.uart with rxFifo := fifo }
      hist := { s.hist with serialIn := s.hist.serialIn ++ got }
      faults := faults } := by
  rcases upFrame_cases p d ok s with ⟨-, e⟩ | ⟨-, u, hu, hcase⟩
  · rw [e]
    exact ⟨s.uart.rxFifo, [], addFault (.rxWhileDisabled d) s.faults, prefix_addFault _ _,
      by simp [raiseFault, State.setFaults]⟩
  · obtain ⟨faults, hfaults, rfl⟩ : ∃ faults, s.faults <+: faults ∧ u = s.setFaults faults := by
      rcases hu with ⟨rfl, -⟩ | ⟨rfl, -⟩
      · exact ⟨u.faults, List.prefix_refl _, rfl⟩
      · exact ⟨_, prefix_addFault _ _, rfl⟩
    rcases hcase with ⟨-, e⟩ | ⟨-, e⟩ <;> rw [e]
    · exact ⟨s.uart.rxFifo, [], addFault (.rxOverrun d) faults, hfaults.trans (prefix_addFault _ _),
        by simp [raiseFault, State.setFaults]⟩
    · exact ⟨_, [d], faults, hfaults, rfl⟩

variable {p s} {m : Move}

/-- An effect that leaves the pins and the timers moves no timed line, so nothing is recorded after it (10_state.md R36). -/
theorem agentStep_of_effect {u : State} (e : agentEffect p m s = u) (hp : u.pins = s.pins) (hl : u.lt = s.lt)
    (hf : u.ft = s.ft) : agentStep p m s = u := by
  rw [agentStep, e, recordEdges_of_same hp hl hf]

/-- A choice of an agent without an enabled step changes nothing (entry 4). -/
theorem agentStep_of_disabled (hm : m ≠ .req) (h : moveEnabled m s = false) : agentStep p m s = s := by
  have heffect : agentEffect p m s = s := by
    cases m with
    | req => exact absurd rfl hm
    | utx =>
      rcases utxStep_cases s with ⟨x, hx, -⟩ | ⟨hnone, hen, x, hx, -⟩ | ⟨-, e⟩
      · simp [moveEnabled, utxDoneEnabled, hx] at h
      · simp [moveEnabled, utxLoadEnabled, hnone, hen, hx] at h
      · exact e
    | spie =>
      rcases spieStep_cases p s with ⟨hen, b, hb, -⟩ | ⟨-, e⟩
      · simp [moveEnabled, spieEnabled, hen, hb] at h
      · exact e
    | lt => exact if_neg (Bool.eq_false_iff.mp h)
    | ft => exact if_neg (Bool.eq_false_iff.mp h)
    | up d ok => cases h
  rw [agentStep, heffect, recordEdges_self]

end

/-- Settles O50: each agent's step changes only what its `_changes` lemma lists, and only the counters' steps record edges. -/
theorem agentFrame : Obligations.AgentFrame := by
  intro p m s
  refine ⟨agentStep_of_disabled, ?_⟩
  cases m with
  | req => simp [agentStep, agentEffect]
  | utx =>
    obtain ⟨buf, shift, sent, e⟩ := utxStep_changes s
    have hstep : agentStep p .utx s = _ := agentStep_of_effect e rfl rfl rfl
    simp [hstep]
  | spie =>
    obtain ⟨shift, done, rx, sent, got, e⟩ := spieStep_changes p s
    have hstep : agentStep p .spie s = _ := agentStep_of_effect e rfl rfl rfl
    simp [hstep]
  | lt =>
    obtain ⟨cnt, oc, e⟩ := ltStep_changes p s
    simp [agentStep, agentEffect, e]
  | ft =>
    obtain ⟨cnt, oc, e⟩ := ftStep_changes p s
    simp [agentStep, agentEffect, e]
  | up d ok =>
    obtain ⟨fifo, got, faults, -, e⟩ := upFrame_changes p s d ok
    have hstep : agentStep p (.up d ok) s = _ := agentStep_of_effect e rfl rfl rfl
    simp [hstep]

/-! ### What every step adds to the faults and the histories (10_state.md R29, R32, R36, R50) -/

section
variable {p : Params} {s t u : State} {i : Instr}

/-- What the step from `s` may have done to the observations in `u`, before its edges are recorded. -/
structure OnlyAdds (s u : State) : Prop where
  faults    : s.faults <+: u.faults
  serialIn  : s.hist.serialIn <+: u.hist.serialIn
  serialOut : s.hist.serialOut <+: u.hist.serialOut
  busOut    : s.hist.busOut <+: u.hist.busOut
  busIn     : s.hist.busIn <+: u.hist.busIn
  edges     : u.hist.edges = s.hist.edges

theorem OnlyAdds.of_hist (hfaults : s.faults <+: u.faults) (hhist : u.hist = s.hist) : OnlyAdds s u := by
  constructor <;> simp [hfaults, hhist]

theorem OnlyAdds.agentEffect (p : Params) (m : Move) (s : State) : OnlyAdds s (agentEffect p m s) := by
  cases m with
  | req => exact .of_hist List.prefix_rfl rfl
  | utx =>
    obtain ⟨buf, shift, sent, e⟩ := utxStep_changes s
    show OnlyAdds s (utxStep s)
    constructor <;> simp [e]
  | spie =>
    obtain ⟨shift, done, rx, sent, got, e⟩ := spieStep_changes p s
    show OnlyAdds s (spieStep p s)
    constructor <;> simp [e]
  | lt =>
    obtain ⟨cnt, oc, e⟩ := ltStep_changes p s
    show OnlyAdds s (ltStep p s)
    constructor <;> simp [e]
  | ft =>
    obtain ⟨cnt, oc, e⟩ := ftStep_changes p s
    show OnlyAdds s (ftStep p s)
    constructor <;> simp [e]
  | up d ok =>
    obtain ⟨fifo, got, faults, hfaults, e⟩ := upFrame_changes p s d ok
    show OnlyAdds s (upFrame p d ok s)
    constructor <;> simp [e, hfaults]

/-- A whole step: an effect that only adds, then the record of the edges it has made. -/
def RecordedStep (s t : State) : Prop := ∃ u, OnlyAdds s u ∧ t = recordEdges s u

/-- A step that moves no timed line and only adds is a whole step as it stands. -/
theorem RecordedStep.of_same (h : OnlyAdds s t) (hp : t.pins = s.pins) (hl : t.lt = s.lt) (hf : t.ft = s.ft) :
    RecordedStep s t :=
  ⟨t, h, (recordEdges_of_same hp hl hf).symm⟩

theorem RecordedStep.refl (s : State) : RecordedStep s s := .of_same (.of_hist List.prefix_rfl rfl) rfl rfl rfl

/-- The record of edges reads only the levels before the step. -/
theorem recordEdges_congr (h : ∀ q, level u q = level s q) (t : State) : recordEdges u t = recordEdges s t := by
  simp [recordEdges, edgeOn, h]

/-- What the requester or the scheduler does before the step proper touches none of what a whole step speaks of. -/
theorem RecordedStep.after (h : RecordedStep u t) (hp : u.pins = s.pins) (hl : u.lt = s.lt) (hf : u.ft = s.ft)
    (hfaults : u.faults = s.faults) (hhist : u.hist = s.hist) : RecordedStep s t := by
  obtain ⟨v, hv, rfl⟩ := h
  exact ⟨v, ⟨hfaults ▸ hv.faults, hhist ▸ hv.serialIn, hhist ▸ hv.serialOut, hhist ▸ hv.busOut, hhist ▸ hv.busIn,
    hhist ▸ hv.edges⟩, recordEdges_congr (level_congr hp hl hf) v⟩

/-- A fault of the requester adds a record and moves no line (60_exceptions.md R212). -/
theorem RecordedStep.raiseReqFault (f : FaultRecord) (o : Issued) (s : State) : RecordedStep s (raiseReqFault f o s) :=
  .of_same (.of_hist (prefix_addFault _ _) rfl) rfl rfl rfl

theorem RecordedStep.execWith (h : execWith p i s = .next t) : RecordedStep s t := by
  rcases execWith_cases h with ⟨-, rfl⟩ | ⟨-, f, -, rfl⟩ | ⟨-, -, rfl⟩ | ⟨-, rfl⟩ | ⟨-, -, rfl⟩
  · exact .refl _
  · exact .raiseReqFault f _ s
  · obtain ⟨hfaults, -, -, hhist, -⟩ := startOf_frame p i s
    exact ⟨_, .of_hist (hfaults ▸ List.prefix_rfl) hhist, rfl⟩
  · obtain ⟨hfaults, -, -, hhist, -⟩ := resumeOf_frame p i s
    exact ⟨_, .of_hist (hfaults ▸ List.prefix_rfl) hhist, rfl⟩
  · exact .refl _

theorem RecordedStep.takeMove {m : Move} (h : takeMove p m s = .next t) : RecordedStep s t := by
  rcases takeMove_cases h with ⟨-, h⟩ | ⟨-, rfl⟩
  · rcases reqStep_cases h with rfl | ⟨-, i, -, -, h⟩ | ⟨-, r, rest, i, -, -, h⟩ | ⟨-, r, rest, e, -, -, rfl⟩
    · exact .refl _
    · exact .execWith h
    · exact (RecordedStep.execWith h).after rfl rfl rfl rfl rfl
    · exact (RecordedStep.raiseReqFault _ _ _).after (u := takeLine r rest s) rfl rfl rfl rfl rfl
  · exact ⟨_, .agentEffect p m s, rfl⟩

/-- Every step only adds to the observations and records the edges it has made. -/
theorem RecordedStep.stepWith (h : stepWith p s = .next t) : RecordedStep s t := by
  obtain ⟨hp, -, -, hl, hf, hhist, hfaults, -⟩ := useChoice_frame s
  exact (RecordedStep.takeMove h).after hp hl hf hfaults hhist

/-- The edges after a whole step, in terms of the levels before and after it. -/
theorem RecordedStep.edges_eq (h : RecordedStep s t) :
    t.hist.edges = s.hist.edges ++ (edgeOn s t .latch ++ edgeOn s t .flicker) := by
  obtain ⟨u, hu, rfl⟩ := h
  simp [edgeOn, hu.edges]

/-! ### The level that the latest edge tells -/

variable {q r : Pin} {es : List Edge}

/-- Where the edges tell a line's level, they do so with the line's next edge added. -/
theorem lastLevel_append_edgeOn_same (h : lastLevel es q = level s q) :
    lastLevel (es ++ edgeOn s t q) q = level t q := by
  by_cases hst : level s q = level t q
  · rw [edgeOn_of_eq hst, List.append_nil, h, hst]
  · simp [lastLevel, edgeOn, hst]

/-- An edge of another line tells nothing of this one. -/
theorem lastLevel_append_edgeOn_ne (hqr : r ≠ q) : lastLevel (es ++ edgeOn s t r) q = lastLevel es q := by
  by_cases hst : level s r = level t r
  · rw [edgeOn_of_eq hst, List.append_nil]
  · simp [lastLevel, edgeOn, hst, hqr]

theorem RecordedStep.edgesTell (h : RecordedStep s t) (hs : EdgesTell s) : EdgesTell t := by
  obtain ⟨hlatch, hflicker⟩ := hs
  rw [EdgesTell, h.edges_eq, ← List.append_assoc]
  exact ⟨(lastLevel_append_edgeOn_ne (by decide)).trans (lastLevel_append_edgeOn_same hlatch),
    lastLevel_append_edgeOn_same ((lastLevel_append_edgeOn_ne (by decide)).trans hflicker)⟩

end

/-- Settles O55: a whole step appends an edge exactly where a timed line's level has changed. -/
theorem stepKeepsEdgesTelling : Obligations.StepKeepsEdgesTelling :=
  fun _ _ _ hs h => (RecordedStep.stepWith h).edgesTell hs

/-- Settles O10: every step is a whole step, whose edges are `edgeOn` of the two timed lines. -/
theorem edgesRecordLevelChanges : Obligations.EdgesRecordLevelChanges := by
  intro p s t h
  rw [List.append_assoc]
  exact (RecordedStep.stepWith h).edges_eq

/-- Settles O11: every step only adds, and then appends its edges. -/
theorem faultsAndHistoriesOnlyGrow : Obligations.FaultsAndHistoriesOnlyGrow := by
  intro p s t h
  have hstep := RecordedStep.stepWith h
  have hedges : s.hist.edges <+: t.hist.edges := hstep.edges_eq ▸ List.prefix_append _ _
  obtain ⟨u, hu, rfl⟩ := hstep
  exact ⟨hu.faults, hu.serialIn, hu.serialOut, hu.busOut, hu.busIn, hedges⟩

/-! ### An operation in progress (10_state.md R41) -/

/-- No operation takes up a line or changes where results go. -/
theorem execWith_queue_dst {p : Params} {i : Instr} {s t : State} (h : execWith p i s = .next t) :
    t.req.queue = s.req.queue ∧ t.req.dst = s.req.dst := by
  rcases execWith_cases h with ⟨-, rfl⟩ | ⟨-, f, -, rfl⟩ | ⟨-, -, rfl⟩ | ⟨-, rfl⟩ | ⟨-, -, rfl⟩
  · exact ⟨rfl, rfl⟩
  · exact ⟨rfl, rfl⟩
  · obtain ⟨-, -, -, -, hqueue, hdst⟩ := startOf_frame p i s
    exact ⟨hqueue, hdst⟩
  · obtain ⟨-, -, -, -, hqueue, hdst⟩ := resumeOf_frame p i s
    exact ⟨hqueue, hdst⟩
  · exact ⟨rfl, rfl⟩

/-- Settles O15: only an idle requester takes a line up, and with an operation in progress it is not idle. -/
theorem operationInProgressBlocksOthers : Obligations.OperationInProgressBlocksOthers := by
  intro s c hop
  have hbusy : ¬ Idle s := fun hidle => by simp [hidle.2] at hop
  refine ⟨fun i hc => ⟨?_, fun p => execWith_other hop hc⟩, fun p t h => ?_⟩
  · rw [exec_eq_execWith]
    exact execWith_other hop hc
  · rcases reqStep_cases h with rfl | ⟨-, i, -, -, h⟩ | ⟨hidle, -⟩ | ⟨hidle, -⟩
    · exact ⟨rfl, rfl⟩
    · exact execWith_queue_dst h
    · exact absurd hidle hbusy
    · exact absurd hidle hbusy

/-! ### What every step writes to the two timers (10_state.md R33, R35, R38) -/

section
variable {p : Params} {s t : State} {a b : Timer}

/-- What one step may make of the latch timer (42_latch_flicker.md R142, R143, R145, R160). -/
inductive LatchTimerWrite (p : Params) (a : Timer) : Timer → Prop where
  | keep : LatchTimerWrite p a a
  | disconnect : LatchTimerWrite p a { a with connected := false }
  | stop : LatchTimerWrite p a { a with run := false }
  | arm (oc : Bool) : LatchTimerWrite p a { a with cnt := 0, cmp := p.latchCmp, oc := oc, connected := true, run := true }
  | tick : LatchTimerWrite p a (latchTick p a)

/-- What one step may make of the flicker timer (40_init.md R104, 42_latch_flicker.md R170). -/
inductive FlickerTimerWrite (p : Params) (a : Timer) : Timer → Prop where
  | keep : FlickerTimerWrite p a a
  | start : FlickerTimerWrite p a { a with cnt := 0, cmp := p.flickerCmp, oc := false, connected := true, run := true }
  | tick : FlickerTimerWrite p a (flickerTick p a)

/-- What one step may make of the two timers. -/
structure TimerWrites (p : Params) (s t : State) : Prop where
  lt : LatchTimerWrite p s.lt t.lt
  ft : FlickerTimerWrite p s.ft t.ft

theorem TimerWrites.of_same (hl : t.lt = s.lt) (hf : t.ft = s.ft) : TimerWrites p s t :=
  ⟨hl ▸ .keep, hf ▸ .keep⟩

theorem TimerWrites.recordEdges {r u : State} (h : TimerWrites p s u) : TimerWrites p s (recordEdges r u) := ⟨h.lt, h.ft⟩

theorem TimerWrites.effectOf (p : Params) (i : Instr) (s : State) : TimerWrites p s (effectOf p i s) := by
  cases i with
  | latchDisconnect => exact ⟨.disconnect, .keep⟩
  | latchTimerStop => exact ⟨.stop, .keep⟩
  | latchArm => exact ⟨.arm s.pins.port.latch, .keep⟩
  | flickerStart => exact ⟨.keep, .start⟩
  | spiXfer _ | latchRead => exact .of_same (deliver_lt _ _) (deliver_ft _ _)
  | uartRecv =>
    show TimerWrites p s (uartTake s)
    unfold uartTake
    split
    · exact .of_same (deliver_lt _ _) (deliver_ft _ _)
    · exact .of_same rfl rfl
  | pinInit | uartInit | spiInit | latchWaitLow | latchDriveHigh | uartSend _ => exact .of_same rfl rfl

/-- An operation's issue is its whole effect, or it only starts a transfer and waits (00_scope.md R11). -/
theorem TimerWrites.startOf (p : Params) (i : Instr) (s : State) : TimerWrites p s (startOf p i s) := by
  unfold Machine.startOf
  split
  case h_5 => exact .effectOf p _ s
  all_goals exact .of_same rfl rfl

theorem TimerWrites.resumeOf (p : Params) (i : Instr) (s : State) : TimerWrites p s (resumeOf p i s) := by
  unfold Machine.resumeOf awaitThen
  split
  · split
    · obtain ⟨hl, hf⟩ := TimerWrites.effectOf p i s
      exact ⟨hl, hf⟩
    · exact .of_same rfl rfl
  · exact .of_same rfl rfl

theorem TimerWrites.execWith {i : Instr} (h : execWith p i s = .next t) : TimerWrites p s t := by
  rcases execWith_cases h with ⟨-, rfl⟩ | ⟨-, f, -, rfl⟩ | ⟨-, -, rfl⟩ | ⟨-, rfl⟩ | ⟨-, -, rfl⟩
  · exact .of_same rfl rfl
  · exact .of_same rfl rfl
  · exact (TimerWrites.startOf p i s).recordEdges
  · exact (TimerWrites.resumeOf p i s).recordEdges
  · exact .of_same rfl rfl

theorem TimerWrites.agentStep (p : Params) (m : Move) (s : State) : TimerWrites p s (agentStep p m s) := by
  obtain ⟨-, -, -, -, -, hl, hf, -⟩ := agentFrame p m s
  cases m with
  | lt =>
    refine ⟨?_, hf nofun ▸ .keep⟩
    show LatchTimerWrite p s.lt (ltStep p s).lt
    rcases ltStep_cases p s with ⟨-, e⟩ | ⟨-, e⟩ <;> rw [e]
    · exact .tick
    · exact .keep
  | ft =>
    refine ⟨hl nofun ▸ .keep, ?_⟩
    show FlickerTimerWrite p s.ft (ftStep p s).ft
    rcases ftStep_cases p s with ⟨-, e⟩ | ⟨-, e⟩ <;> rw [e]
    · exact .tick
    · exact .keep
  | req | utx | spie | up _ _ => exact .of_same (hl nofun) (hf nofun)

/-- Every step makes at most one of the listed writes to each timer. -/
theorem TimerWrites.stepWith (h : stepWith p s = .next t) : TimerWrites p s t := by
  suffices hmove : TimerWrites p (useChoice s) t by
    obtain ⟨-, -, -, hl, hf, -⟩ := useChoice_frame s
    obtain ⟨hlt, hft⟩ := hmove
    exact ⟨hl ▸ hlt, hf ▸ hft⟩
  rcases takeMove_cases h with ⟨-, h⟩ | ⟨-, rfl⟩
  · rcases reqStep_cases h with rfl | ⟨-, i, -, -, h⟩ | ⟨-, r, rest, i, -, -, h⟩ | ⟨-, r, rest, e, -, -, rfl⟩
    · exact .of_same rfl rfl
    · exact .execWith h
    · obtain ⟨hl, hf⟩ := TimerWrites.execWith h
      exact ⟨hl, hf⟩
    · exact .of_same rfl rfl
  · exact .agentStep p _ _

/-! ### One write to one timer -/

theorem latchTick_cmp : (latchTick p a).cmp = a.cmp := by rw [latchTick_frame]
theorem latchTick_run : (latchTick p a).run = a.run := by rw [latchTick_frame]
theorem flickerTick_cmp : (flickerTick p a).cmp = a.cmp := by rw [flickerTick_frame]
theorem flickerTick_run : (flickerTick p a).run = a.run := by rw [flickerTick_frame]

/-- A tick clears the counter or counts modulo 2 to the width (42_latch_flicker.md R160). -/
theorem latchTick_cnt_lt : (latchTick p a).cnt < 2 ^ p.ltWidth := by
  have hwrap : (a.cnt + 1) % 2 ^ p.ltWidth < 2 ^ p.ltWidth := Nat.mod_lt _ (Nat.two_pow_pos _)
  unfold latchTick
  split
  · cases p.latchMode
    · exact Nat.two_pow_pos _
    · exact hwrap
  · exact hwrap

theorem flickerTick_cnt_lt : (flickerTick p a).cnt < 2 ^ p.ftWidth := by
  unfold flickerTick
  split
  · exact Nat.two_pow_pos _
  · exact Nat.mod_lt _ (Nat.two_pow_pos _)

/-- In CTC mode a tick clears a counter that has reached its compare value, and else adds at most 1 to one below it
(42_latch_flicker.md R160, R162). -/
theorem latchTick_cnt_le_cmp (hm : p.latchMode = .ctc) (h : a.cnt ≤ a.cmp) : (latchTick p a).cnt ≤ (latchTick p a).cmp := by
  have hwrap : (a.cnt + 1) % 2 ^ p.ltWidth ≤ a.cnt + 1 := Nat.mod_le _ _
  by_cases heq : a.cnt = a.cmp
  · simp [latchTick, heq, hm]
  · simp only [latchTick, heq, if_false]
    omega

/-- The flicker counter always clears on compare (42_latch_flicker.md R170). -/
theorem flickerTick_cnt_le_cmp (h : a.cnt ≤ a.cmp) : (flickerTick p a).cnt ≤ (flickerTick p a).cmp := by
  have hwrap : (a.cnt + 1) % 2 ^ p.ftWidth ≤ a.cnt + 1 := Nat.mod_le _ _
  by_cases heq : a.cnt = a.cmp
  · simp [flickerTick, heq]
  · simp only [flickerTick, heq, if_false]
    omega

theorem LatchTimerWrite.fits (hw : LatchTimerWrite p a b) (hp : p.Legal) (hcnt : a.cnt < 2 ^ p.ltWidth)
    (hcmp : a.cmp < 2 ^ p.ltWidth) : b.cnt < 2 ^ p.ltWidth ∧ b.cmp < 2 ^ p.ltWidth := by
  cases hw with
  | keep | disconnect | stop => exact ⟨hcnt, hcmp⟩
  | arm _ => exact ⟨Nat.two_pow_pos _, hp.latchCmp⟩
  | tick => exact ⟨latchTick_cnt_lt, latchTick_cmp.trans_lt hcmp⟩

theorem FlickerTimerWrite.fits (hw : FlickerTimerWrite p a b) (hp : p.Legal) (hcnt : a.cnt < 2 ^ p.ftWidth)
    (hcmp : a.cmp < 2 ^ p.ftWidth) : b.cnt < 2 ^ p.ftWidth ∧ b.cmp < 2 ^ p.ftWidth := by
  cases hw with
  | keep => exact ⟨hcnt, hcmp⟩
  | start => exact ⟨Nat.two_pow_pos _, hp.flickerCmp⟩
  | tick => exact ⟨flickerTick_cnt_lt, flickerTick_cmp.trans_lt hcmp⟩

/-- Only LATCH_ARM writes the compare value, and nothing else starts the counter (42_latch_flicker.md R145). -/
theorem LatchTimerWrite.cmp_fixed (hw : LatchTimerWrite p a b) (hcmp : a.cmp = 0 ∨ a.cmp = p.latchCmp)
    (hrun : a.run = true → a.cmp = p.latchCmp) :
    (b.cmp = 0 ∨ b.cmp = p.latchCmp) ∧ (b.run = true → b.cmp = p.latchCmp) := by
  cases hw with
  | keep | disconnect => exact ⟨hcmp, hrun⟩
  | stop => exact ⟨hcmp, nofun⟩
  | arm _ => exact ⟨.inr rfl, fun _ => rfl⟩
  | tick => rw [latchTick_cmp, latchTick_run]; exact ⟨hcmp, hrun⟩

/-- Only FLICKER_START writes the compare value, and nothing else starts the counter (40_init.md R104). -/
theorem FlickerTimerWrite.cmp_fixed (hw : FlickerTimerWrite p a b) (hcmp : a.cmp = 0 ∨ a.cmp = p.flickerCmp)
    (hrun : a.run = true → a.cmp = p.flickerCmp) :
    (b.cmp = 0 ∨ b.cmp = p.flickerCmp) ∧ (b.run = true → b.cmp = p.flickerCmp) := by
  cases hw with
  | keep => exact ⟨hcmp, hrun⟩
  | start => exact ⟨.inr rfl, fun _ => rfl⟩
  | tick => rw [flickerTick_cmp, flickerTick_run]; exact ⟨hcmp, hrun⟩

theorem LatchTimerWrite.cnt_le_cmp (hw : LatchTimerWrite p a b) (hm : p.latchMode = .ctc) (h : a.cnt ≤ a.cmp) :
    b.cnt ≤ b.cmp := by
  cases hw with
  | keep | disconnect | stop => exact h
  | arm _ => exact Nat.zero_le _
  | tick => exact latchTick_cnt_le_cmp hm h

theorem FlickerTimerWrite.cnt_le_cmp (hw : FlickerTimerWrite p a b) (h : a.cnt ≤ a.cmp) : b.cnt ≤ b.cmp := by
  cases hw with
  | keep => exact h
  | start => exact Nat.zero_le _
  | tick => exact flickerTick_cnt_le_cmp h

/-! ### The invariants of the two timers -/

theorem CountersFit.of_writes (h : CountersFit p s) (hp : p.Legal) (hw : TimerWrites p s t) : CountersFit p t := by
  obtain ⟨hltCnt, hltCmp⟩ := hw.lt.fits hp h.ltCnt h.ltCmp
  obtain ⟨hftCnt, hftCmp⟩ := hw.ft.fits hp h.ftCnt h.ftCmp
  exact ⟨hltCnt, hltCmp, hftCnt, hftCmp⟩

theorem ComparesFixed.of_writes (h : ComparesFixed p s) (hw : TimerWrites p s t) : ComparesFixed p t := by
  obtain ⟨hltCmp, hltRun⟩ := hw.lt.cmp_fixed h.ltCmp h.ltRun
  obtain ⟨hftCmp, hftRun⟩ := hw.ft.cmp_fixed h.ftCmp h.ftRun
  exact ⟨hltCmp, hftCmp, hltRun, hftRun, fun hm => hw.lt.cnt_le_cmp hm (h.ltCnt hm), hw.ft.cnt_le_cmp h.ftCnt⟩

end

/-- Settles O51: every write that a step makes to a timer keeps its counter and its compare value within the width. -/
theorem countersStayWithinWidth : Obligations.CountersStayWithinWidth :=
  ⟨fun p m s hp h => h.of_writes hp (.agentStep p m s), fun _ _ _ hp h hx => h.of_writes hp (.stepWith hx)⟩

/-- Settles O52: a compare value is written with its parameter only, and a counter that clears on compare never passes it. -/
theorem stepKeepsComparesFixed : Obligations.StepKeepsComparesFixed :=
  fun _ _ _ h hx => h.of_writes (.stepWith hx)

end Sys2Proof.Machine

namespace Sys2Proof.Machine

/-! ### A held SPI_XFER (41_spi.md R121) -/

section
variable {b : Byte} {s : State}

/-- A held SPI_XFER returns exactly when its transfer is complete; while it is not, it stays held. -/
theorem exec_spiXfer_held (h : HeldAt (.spiXfer b) s) :
    exec (.spiXfer b) s = .next (if s.spi.done then (spiCollect s).setOp none else s) := by
  rw [exec_eq_execWith, execWith_resume h]
  show Host.Outcome.next (recordEdges s (if s.spi.done then (spiCollect s).setOp none else s)) = _
  split
  · exact congrArg _ (recordEdges_of_same (deliver_pins _ _) (deliver_lt _ _) (deliver_ft _ _))
  · rw [recordEdges_self]

/-- A held SPI_XFER that has returned found its transfer complete, and collected it. -/
theorem spiXfer_returned {t : State} (h : HeldAt (.spiXfer b) s) (hx : exec (.spiXfer b) s = .next t)
    (hret : t.req.op = none) : s.spi.done = true ∧ t = (spiCollect s).setOp none := by
  rw [exec_spiXfer_held h] at hx
  injection hx with hx
  cases hdone : s.spi.done with
  | true => simpa [hdone, eq_comm] using hx
  | false =>
    obtain rfl : s = t := by simpa [hdone] using hx
    exact absurd (h.2.symm.trans hret) (by simp)

theorem spiCollect_hist : (spiCollect s).hist = s.hist := deliver_hist _ _

/-- The result collected is the byte that the engine received. -/
theorem readVar_spiCollect {n : Nat} (h : s.req.dst = some n) : readVar (spiCollect s).req.x n = s.spi.rx :=
  (readVar_deliver (s := s.setSpi { s.spi with done := false }) h n).trans (if_pos rfl)

/-- Under the protocol a complete transfer is the held SPI_XFER's own: its byte and its answer are the last on the bus. -/
theorem SpiProtocol.histories_of_done (hs : SpiProtocol s) (h : HeldAt (.spiXfer b) s) (hdone : s.spi.done = true) :
    s.hist.busOut.getLast? = some b ∧ s.hist.busIn.getLast? = some s.spi.rx := by
  obtain ⟨-, c, hop, hout, hin⟩ := hs.complete hdone
  obtain rfl : b = c := by simpa using h.2.symm.trans hop
  exact ⟨hout, hin⟩

end

/-- Settles O25: only a complete transfer lets a held SPI_XFER return, and the protocol has the byte and the answer of a complete
transfer last in the histories, which collecting leaves alone. -/
theorem spiXferReturnsAfterTransfer : Obligations.SpiXferReturnsAfterTransfer := by
  intro b s t hs h hx hret
  obtain ⟨hdone, rfl⟩ := spiXfer_returned h hx hret
  obtain ⟨hout, hin⟩ := hs.histories_of_done h hdone
  rw [setOp_hist, spiCollect_hist]
  refine ⟨hout, fun n hdst => ?_⟩
  rw [setOp_req, readVar_spiCollect hdst]
  exact hin

end Sys2Proof.Machine

namespace Sys2Proof

/-! ### The operation map and an operation's fields (30_encoding.md R80 to R82) -/

@[simp] theorem opOfCode_codeOf (o : OpName) : opOfCode (codeOf o) = some o := by cases o <;> rfl

theorem codeOf_of_opOfCode {c : Byte} {o : OpName} (h : opOfCode c = some o) : codeOf o = c := by
  unfold opOfCode at h
  split at h <;> cases h <;> rfl

theorem opOfCode_eq_some_iff {c : Byte} {o : OpName} : opOfCode c = some o ↔ codeOf o = c :=
  ⟨codeOf_of_opOfCode, fun h => h ▸ opOfCode_codeOf o⟩

@[simp] theorem name_instrOf (o : OpName) (b : Byte) : (instrOf o b).name = o := by cases o <;> rfl

/-- The operand reaches the operation where it takes one, and is 0 where it takes none. -/
theorem imm_instrOf {o : OpName} {b : Byte} (h : o.takesByte = true ∨ b = 0) : (instrOf o b).imm = b := by
  rcases h with h | rfl
  · cases o with
    | spiXfer | uartSend => rfl
    | _ => cases h
  · cases o <;> rfl

@[simp] theorem instrOf_name_imm (i : Instr) : instrOf i.name i.imm = i := by cases i <;> rfl

theorem takesByte_or_imm_eq_zero (i : Instr) : i.name.takesByte = true ∨ i.imm = 0 := by
  cases i with
  | spiXfer _ | uartSend _ => exact .inl rfl
  | _ => exact .inr rfl

/-! ### The fields of a word (30_encoding.md R80) -/

@[simp] theorem opByte_encode (i : Instr) : opByte (encode i) = codeOf i.name := (Laws.WordFields.fields_append _ _).1

@[simp] theorem immByte_encode (i : Instr) : immByte (encode i) = i.imm := (Laws.WordFields.fields_append _ _).2

theorem opByte_append_immByte (w : Word) : opByte w ++ immByte w = w :=
  BitVec.extractLsb'_append_extractLsb'_eq_extractLsb' rfl |>.trans BitVec.extractLsb'_eq_self

theorem toNat_opByte (w : Word) : (opByte w).toNat = w.toNat / 256 := by
  rw [opByte, BitVec.extractLsb'_toNat, Nat.shiftRight_eq_div_pow]
  have := w.isLt
  omega

theorem toNat_immByte (w : Word) : (immByte w).toNat = w.toNat % 256 := by
  rw [immByte, BitVec.extractLsb'_toNat, Nat.shiftRight_zero]

/-! ### What the decoder answers (30_encoding.md R83, R84) -/

section
variable {w : Word} {o : OpName}

theorem decode_unknownOp (h : opOfCode (opByte w) = none) : decode w = .error .unknownOp := by simp [decode, h]

theorem decode_immNotZero (h : opOfCode (opByte w) = some o) (ht : o.takesByte = false) (hi : immByte w ≠ 0) :
    decode w = .error .immNotZero := by
  simpa [decode, h, ht] using hi

theorem decode_accepts (h : opOfCode (opByte w) = some o) (hv : o.takesByte = true ∨ immByte w = 0) :
    decode w = .ok (instrOf o (immByte w)) := by
  rcases hv with hv | hv <;> simp [decode, h, hv]

/-- The decoder accepts a word exactly as the operation whose code and operand are the word's fields. -/
theorem decode_eq_ok_iff {i : Instr} : decode w = .ok i ↔ opByte w = codeOf i.name ∧ immByte w = i.imm := by
  constructor
  · intro h
    cases hop : opOfCode (opByte w) with
    | none => simp [decode_unknownOp hop] at h
    | some o =>
      by_cases hv : o.takesByte = true ∨ immByte w = 0
      · rw [decode_accepts hop hv] at h
        cases h
        rw [name_instrOf, imm_instrOf hv]
        exact ⟨(codeOf_of_opOfCode hop).symm, rfl⟩
      · obtain ⟨ht, hi⟩ := not_or.mp hv
        simp [decode_immNotZero hop (Bool.eq_false_of_not_eq_true ht) hi] at h
  · rintro ⟨hop, himm⟩
    rw [decode_accepts (hop ▸ opOfCode_codeOf i.name) (himm ▸ takesByte_or_imm_eq_zero i), himm, instrOf_name_imm]

end

theorem decode_encode (i : Instr) : decode (encode i) = .ok i :=
  decode_eq_ok_iff.mpr ⟨opByte_encode i, immByte_encode i⟩

/-- Settles O1: the fields of an operation's word are its code and its operand, which the decoder reads back. -/
theorem decodeOfEncode : Obligations.DecodeOfEncode := decode_encode

/-- Settles O2: an accepted word has the operation's code and operand as its fields, and a word is its two fields. -/
theorem encodeOfDecode : Obligations.EncodeOfDecode := by
  intro w i h
  obtain ⟨hop, himm⟩ := decode_eq_ok_iff.mp h
  rw [encode, ← hop, ← himm, opByte_append_immByte]

/-! ### The codes as numbers (30_encoding.md R81) -/

/-- The operation codes of R81's map, in its order. -/
def operationCodes : List Nat := [0x01, 0x02, 0x03, 0x04, 0x10, 0x20, 0x21, 0x22, 0x23, 0x24, 0x25, 0x30, 0x31]

theorem mem_operationCodes_iff {n : Nat} : n ∈ operationCodes ↔ ∃ o, (codeOf o).toNat = n := by
  constructor
  · intro h
    have hall : ∀ k ∈ operationCodes, (opOfCode (BitVec.ofNat 8 k)).isSome ∧ (BitVec.ofNat 8 k).toNat = k := by decide
    obtain ⟨hsome, hn⟩ := hall n h
    obtain ⟨o, ho⟩ := Option.isSome_iff_exists.mp hsome
    exact ⟨o, by rw [codeOf_of_opOfCode ho, hn]⟩
  · rintro ⟨o, rfl⟩
    cases o <;> decide

theorem toNat_codeOf_mem_operandCodes_iff (o : OpName) : (codeOf o).toNat ∈ [0x10, 0x31] ↔ o.takesByte = true := by
  cases o <;> decide

theorem opOfCode_opByte_eq_some_iff {w : Word} {o : OpName} :
    opOfCode (opByte w) = some o ↔ (codeOf o).toNat = w.toNat / 256 := by
  rw [opOfCode_eq_some_iff, ← toNat_opByte, BitVec.toNat_inj]

theorem opOfCode_opByte_eq_none_iff {w : Word} : opOfCode (opByte w) = none ↔ w.toNat / 256 ∉ operationCodes := by
  simp [mem_operationCodes_iff, Option.eq_none_iff_forall_ne_some, opOfCode_opByte_eq_some_iff]

theorem immByte_eq_zero_iff {w : Word} : immByte w = 0 ↔ w.toNat % 256 = 0 := by
  rw [← toNat_immByte, ← BitVec.toNat_inj]
  rfl

/-- Settles O3: one clause for each answer of the decoder, its conditions carried over to quotient and remainder. -/
theorem decodeChecksInOrder : Obligations.DecodeChecksInOrder := by
  intro w
  refine ⟨fun hcode => decode_unknownOp (opOfCode_opByte_eq_none_iff.mpr hcode), ?refused, ?accepted⟩
  case refused =>
    intro hcode hno himm
    obtain ⟨o, ho⟩ := mem_operationCodes_iff.mp hcode
    rw [← ho, toNat_codeOf_mem_operandCodes_iff, Bool.not_eq_true] at hno
    exact decode_immNotZero (opOfCode_opByte_eq_some_iff.mpr ho) hno (immByte_eq_zero_iff.not.mpr himm)
  case accepted =>
    intro hcode hv
    obtain ⟨o, ho⟩ := mem_operationCodes_iff.mp hcode
    rw [← ho, toNat_codeOf_mem_operandCodes_iff, ← immByte_eq_zero_iff] at hv
    have hok := decode_accepts (opOfCode_opByte_eq_some_iff.mpr ho) hv
    obtain ⟨hop, himm⟩ := decode_eq_ok_iff.mp hok
    exact ⟨_, hok, by rw [← hop, toNat_opByte], by rw [← himm, toNat_immByte]⟩

/-- The words of a list of operations decode to them, in their order (30_encoding.md R88 to R90). -/
theorem map_decode_encode (is : List Instr) : (is.map encode).map decode = is.map .ok := by
  rw [List.map_map]
  exact List.map_congr_left fun i _ => decode_encode i

/-- Settles O4: each word that means something is some operation's word; the two that mean nothing fail one check each. -/
theorem sampleWordsDecode : Obligations.SampleWordsDecode :=
  ⟨decode_encode .pinInit, decode_encode .uartInit, decode_encode (.spiXfer 0x55), decode_encode .latchWaitLow,
    decode_encode .latchArm, decode_encode .uartRecv, decode_encode (.uartSend 0xFF),
    decode_immNotZero (o := .latchArm) rfl rfl (by decide), decode_unknownOp rfl,
    map_decode_encode [.latchWaitLow, .latchDisconnect, .latchTimerStop, .latchDriveHigh, .latchArm],
    map_decode_encode [.pinInit, .uartInit, .spiInit, .flickerStart], map_decode_encode [.uartSend 0xFF]⟩

end Sys2Proof

namespace Sys2Proof.Machine

/-! ### An illegal word (30_encoding.md R84, 60_exceptions.md R212) -/

@[simp] theorem halted_raiseIllegal (w : Word) (s : State) : halted (raiseIllegal w s) = true := by
  rw [halted, raiseIllegal, raiseReqFault_faults, any_addFault]
  rfl

/-- Settles O13: the requester's move takes the line up and raises the fault, with which it is halted. -/
theorem illegalWordHaltsRequester : Obligations.IllegalWordHaltsRequester :=
  fun s r rest _ hidle hq hd _ =>
    ⟨raiseIllegal r.word (takeLine r rest s), reqStep_illegal hidle hq hd, halted_raiseIllegal _ _, rfl⟩

end Sys2Proof.Machine

namespace Sys2Proof.Machine

/-! ### The common checks and an operation's issue (40_init.md R100, 00_scope.md R11) -/

section
variable {p : Params} {i j : Instr} {s t : State} {f : FaultRecord}

/-- An operation without operand is known by its name. -/
theorem eq_of_name_eq (h : i.name = j.name) (hj : j.name.takesByte = false) : i = j := by
  have hi : i.imm = 0 := (takesByte_or_imm_eq_zero i).resolve_left (by simp [h, hj])
  have hj : j.imm = 0 := (takesByte_or_imm_eq_zero j).resolve_left (by simp [hj])
  rw [← instrOf_name_imm i, ← instrOf_name_imm j, h, hi, hj]

/-- Before PIN_INIT every other operation fails the first check. -/
theorem precheck_of_not_ready (hi : i ≠ .pinInit) (hr : s.pins.ready = false) :
    precheck i s = some (.notConfigured i.name .pins) := by
  have hname : i.name ≠ .pinInit := fun h => hi (eq_of_name_eq (j := .pinInit) h rfl)
  simp [precheck, hname, hr]

/-- An operation other than PIN_INIT that passes the checks finds the pins ready. -/
theorem ready_of_precheck (h : precheck i s = none) (hi : i ≠ .pinInit) : s.pins.ready = true := by
  by_contra hr
  simp [precheck_of_not_ready hi (Bool.eq_false_of_not_eq_true hr)] at h

@[simp] theorem precheck_pinInit (s : State) : precheck .pinInit s = none :=
  (precheck_eq_none _ _).mpr (by simp [Instr.name])

theorem exec_start (h : Idle s) (hp : precheck i s = none) :
    exec i s = .next (recordEdges s (startOf Config.params i s)) := by
  rw [exec_eq_execWith, execWith_start h hp]

theorem exec_fault (h : Idle s) (hp : precheck i s = some f) : exec i s = .next (raiseReqFault f (.op i) s) := by
  rw [exec_eq_execWith, execWith_fault h hp]

/-- The issue of an operation without an `await` is its whole effect. -/
theorem startOf_of_not_waits (h : waits i = false) : startOf p i = effectOf p i := by
  cases i with
  | spiXfer _ | latchWaitLow | uartRecv | uartSend _ => cases h
  | _ => rfl

/-- The issue of a waiting operation leaves it held, with at most its transfer started. -/
theorem startOf_of_waits (h : waits i = true) :
    startOf p i s = holdAt i s ∨ ∃ b, i = .spiXfer b ∧ startOf p i s = holdAt i (spiStart b s) := by
  cases i with
  | spiXfer b => exact .inr ⟨b, rfl, rfl⟩
  | latchWaitLow | uartRecv | uartSend _ => exact .inl rfl
  | _ => cases h

/-- Everything an operation without an `await` can do. -/
theorem execWith_cases_of_not_waits (hw : waits i = false) (h : execWith p i s = .next t) :
    t = s ∨ (Idle s ∧ ∃ f, precheck i s = some f ∧ t = raiseReqFault f (.op i) s) ∨
    (Idle s ∧ precheck i s = none ∧ t = recordEdges s (effectOf p i s)) := by
  rcases execWith_cases h with ⟨-, rfl⟩ | hfault | ⟨hidle, hp, rfl⟩ | ⟨-, rfl⟩ | ⟨-, -, rfl⟩
  · exact .inl rfl
  · exact .inr (.inl hfault)
  · exact .inr (.inr ⟨hidle, hp, by rw [startOf_of_not_waits hw]⟩)
  · exact .inl (by simp [resumeOf, hw])
  · exact .inl rfl

/-- A held operation's resumption: it passes with its effect and ends, or nothing happens. -/
theorem resumeOf_cases (p : Params) (i : Instr) (s : State) :
    (waits i = true ∧ awaitHolds i s = true ∧ resumeOf p i s = (effectOf p i s).setOp none) ∨ resumeOf p i s = s := by
  unfold resumeOf
  cases hw : waits i with
  | false => exact .inr rfl
  | true =>
    cases ha : awaitHolds i s with
    | false => exact .inr (awaitThen_still ha)
    | true => exact .inl ⟨rfl, rfl, awaitThen_pass ha⟩

/-! ### What setup has done (40_init.md R100 to R104, 10_state.md R25, R38) -/

/-- The pins and the four units, of which `SetupShape` speaks. -/
def units (s : State) : Pins × Uart × Spi × Timer × Timer := (s.pins, s.uart, s.spi, s.lt, s.ft)

/-- The shape of setup is read from `units` alone, so an update of any other field keeps it. -/
theorem SetupShape.congr (h : SetupShape s) (hunits : units t = units s) : SetupShape t := by
  simp only [units, Prod.mk.injEq] at hunits
  obtain ⟨hpins, huart, hspi, hlt, hft⟩ := hunits
  constructor
  case before => simpa only [hpins, huart, hspi, hlt, hft] using h.before
  case after => simpa only [hpins] using h.after
  case uartOn => simpa only [huart] using h.uartOn
  case uartOff => simpa only [huart] using h.uartOff
  case spiOff => simpa only [hspi] using h.spiOff
  case flicker => simpa only [hft] using h.flicker

/-- A unit that is on has found the pins ready. -/
theorem SetupShape.ready_of_on (h : SetupShape s)
    (hon : s.uart.configured = true ∨ s.spi.en = true ∨ s.lt.run = true ∨ s.ft.run = true) : s.pins.ready = true := by
  by_contra hr
  obtain ⟨-, -, hu, hs, hl, -, hf⟩ := h.before (Bool.eq_false_of_not_eq_true hr)
  simp [hu, hs, hl, hf] at hon

/-- With the pins ready the clause on power-on asks nothing. -/
theorem not_before {P : Prop} (hr : s.pins.ready = true) (hn : s.pins.ready = false) : P := by simp [hr] at hn

/-- With the pins ready a write to the UART need only keep the UART's two clauses. -/
theorem SetupShape.setUart (h : SetupShape s) (hr : s.pins.ready = true) {v : Uart}
    (hon : v.rxEn = v.configured ∧ v.txEn = v.configured)
    (hoff : v.configured = false → v.rxFifo = [] ∧ v.txBuf = none ∧ v.txShift = none) : SetupShape (s.setUart v) :=
  { h with before := not_before hr, uartOn := hon, uartOff := hoff }

theorem SetupShape.setSpi (h : SetupShape s) (hr : s.pins.ready = true) {v : Spi}
    (hoff : v.en = false → v.shiftOut = none ∧ v.done = false) : SetupShape (s.setSpi v) :=
  { h with before := not_before hr, spiOff := hoff }

/-- With the pins ready the latch timer may hold anything: it has no setup (40_init.md R105). -/
theorem SetupShape.setLt (h : SetupShape s) (hr : s.pins.ready = true) (v : Timer) : SetupShape (s.setLt v) :=
  { h with before := not_before hr }

theorem SetupShape.setFt (h : SetupShape s) (hr : s.pins.ready = true) {v : Timer} (hv : v.connected = v.run) :
    SetupShape (s.setFt v) :=
  { h with before := not_before hr, flicker := hv }

/-- With the pins ready LATCH's port bit is free. -/
theorem SetupShape.setLatchPort (h : SetupShape s) (hr : s.pins.ready = true) (v : Bool) :
    SetupShape (setLatchPort s v) :=
  { h with before := not_before hr, after := fun _ => h.after hr }

theorem SetupShape.deliver (h : SetupShape s) (v : Byte) : SetupShape (deliver v s) :=
  h.congr (by simp [units])

/-- PIN_INIT makes the pins of `after`, whose port bits other than its own three are at their power-on value or kept. -/
theorem SetupShape.pinInit (h : SetupShape s) : SetupShape (pinInit s) := by
  have hport : s.pins.port.sck = false ∧ s.pins.port.mosi = false ∧ s.pins.port.ss = false ∧
      s.pins.port.flicker = false := by
    cases hr : s.pins.ready with
    | false =>
      obtain ⟨-, hzero, -⟩ := h.before hr
      simp [hzero, PinBits.zero]
    | true =>
      obtain ⟨-, -, -, -, hkept⟩ := h.after hr
      exact hkept
  exact { h with before := nofun, after := fun _ => ⟨rfl, rfl, rfl, rfl, hport⟩ }

/-- PIN_INIT repeated writes what stands there already (40_init.md R101). -/
theorem SetupShape.pinInit_eq (h : SetupShape s) (hr : s.pins.ready = true) : Machine.pinInit s = s := by
  obtain ⟨hddr, htxd, hrxd, hmiso, -⟩ := h.after hr
  calc Machine.pinInit s
    _ = s.setPins
          { ddr := s.pins.ddr
            port := { s.pins.port with txd := s.pins.port.txd, rxd := s.pins.port.rxd, miso := s.pins.port.miso }
            ready := s.pins.ready } := by rw [hddr, htxd, hrxd, hmiso, hr]; rfl
    _ = s := rfl

/-- UART_RECV takes its byte from a configured UART (43_uart.md R186). -/
theorem SetupShape.uartTake (h : SetupShape s) (hr : s.pins.ready = true) (hc : s.uart.configured = true) :
    SetupShape (uartTake s) := by
  unfold Machine.uartTake
  split
  case h_1 d rest _ => exact (h.setUart hr (v := { s.uart with rxFifo := rest }) h.uartOn (by simp [hc])).deliver d
  case h_2 => exact h

/-- An operation that passes the checks keeps the shape of setup. -/
theorem SetupShape.effectOf (h : SetupShape s) (hc : precheck i s = none) : SetupShape (effectOf p i s) := by
  by_cases hi : i = .pinInit
  · exact hi ▸ h.pinInit
  have hr : s.pins.ready = true := ready_of_precheck hc hi
  obtain ⟨-, -, -, -, huart, -⟩ := (precheck_eq_none i s).mp hc
  cases i with
  | pinInit => exact absurd rfl hi
  | uartInit => exact h.setUart hr ⟨rfl, rfl⟩ nofun
  | spiInit => exact h.setSpi hr nofun
  | flickerStart => exact h.setFt hr rfl
  | spiXfer _ => exact (h.setSpi hr (v := { s.spi with done := false }) fun hen => ⟨(h.spiOff hen).1, rfl⟩).deliver _
  | latchWaitLow => exact h
  | latchDisconnect => exact (h.setLatchPort hr false).setLt hr _
  | latchTimerStop | latchArm => exact h.setLt hr _
  | latchDriveHigh => exact h.setLatchPort hr true
  | latchRead => exact h.deliver _
  | uartRecv => exact h.uartTake hr (huart (.inl rfl))
  | uartSend _ => exact h.setUart hr h.uartOn (by simp [huart (.inr rfl)])

/-- The issue of SPI_XFER hands its byte to an enabled unit (41_spi.md R121). -/
theorem SetupShape.startOf (h : SetupShape s) (hc : precheck i s = none) : SetupShape (startOf p i s) := by
  cases hw : waits i with
  | false => exact startOf_of_not_waits hw ▸ h.effectOf hc
  | true =>
    rcases startOf_of_waits (p := p) (s := s) hw with e | ⟨b, rfl, e⟩ <;> rw [e]
    · exact h.congr rfl
    · obtain ⟨-, -, -, -, -, hen⟩ := (precheck_eq_none _ s).mp hc
      have hstart : SetupShape (spiStart b s) := h.setSpi (ready_of_precheck hc nofun) (by simp [hen rfl])
      exact hstart.congr rfl

theorem SetupShape.resumeOf (h : SetupShape s) (hc : precheck i s = none) : SetupShape (resumeOf p i s) := by
  rcases resumeOf_cases p i s with ⟨-, -, e⟩ | e <;> rw [e]
  · exact (h.effectOf hc).congr rfl
  · exact h

/-- An agent writes only to a unit that is on. -/
theorem SetupShape.agentEffect (h : SetupShape s) (m : Move) : SetupShape (agentEffect p m s) := by
  cases m with
  | req => exact h
  | utx =>
    show SetupShape (utxStep s)
    have hwrite (hc : s.uart.configured = true) (buf shift : Option Byte) :
        SetupShape (s.setUart { s.uart with txBuf := buf, txShift := shift }) :=
      h.setUart (h.ready_of_on (.inl hc)) h.uartOn (by simp [hc])
    rcases utxStep_cases s with ⟨x, hx, e⟩ | ⟨-, hen, x, -, e⟩ | ⟨-, e⟩ <;> rw [e]
    · have hc : s.uart.configured = true := by
        by_contra hn
        obtain ⟨-, -, hshift⟩ := h.uartOff (Bool.eq_false_of_not_eq_true hn)
        simp [hshift] at hx
      exact (hwrite hc s.uart.txBuf none).congr rfl
    · exact hwrite (h.uartOn.2 ▸ hen) none (some x)
    · exact h
  | spie =>
    show SetupShape (spieStep p s)
    rcases spieStep_cases p s with ⟨hen, b, -, e⟩ | ⟨-, e⟩ <;> rw [e]
    · have hspi : SetupShape (s.setSpi (spieComplete p b s).spi) :=
        h.setSpi (h.ready_of_on (.inr (.inl hen))) (by simp [spieComplete, hen])
      exact hspi.congr rfl
    · exact h
  | lt =>
    show SetupShape (ltStep p s)
    rcases ltStep_cases p s with ⟨hrun, e⟩ | ⟨-, e⟩ <;> rw [e]
    · exact h.setLt (h.ready_of_on (.inr (.inr (.inl hrun)))) _
    · exact h
  | ft =>
    show SetupShape (ftStep p s)
    rcases ftStep_cases p s with ⟨hrun, e⟩ | ⟨-, e⟩ <;> rw [e]
    · exact h.setFt (h.ready_of_on (.inr (.inr (.inr hrun)))) (by rw [flickerTick_frame]; exact h.flicker)
    · exact h
  | up d ok =>
    show SetupShape (upFrame p d ok s)
    cases hc : s.uart.rxEn with
    | false =>
      rw [upFrame, if_neg (by simp [hc])]
      exact h.congr rfl
    | true =>
      obtain ⟨fifo, got, faults, -, e⟩ := upFrame_changes p s d ok
      have hon : s.uart.configured = true := h.uartOn.1 ▸ hc
      have hfifo : SetupShape (s.setUart { s.uart with rxFifo := fifo }) :=
        h.setUart (h.ready_of_on (.inl hon)) h.uartOn (by simp [hon])
      exact e ▸ hfifo.congr rfl

/-! ### The requester's place (10_state.md R41, 60_exceptions.md R212) -/

/-- The requester's place is told by `req.op`, by whether it is halted, and by which operations pass the checks. -/
theorem ReqShape.congr (h : ReqShape s) (hop : t.req.op = s.req.op) (hh : halted t = halted s)
    (hc : ∀ i, precheck i t = precheck i s) : ReqShape t := by
  simpa only [ReqShape, hop, hh, hc] using h

theorem reqShape_none (hop : s.req.op = none) (hh : halted s = false) : ReqShape s := by
  simpa only [ReqShape, hop] using hh

/-- A fault that REQ raises leaves it at stage 0 and halted. -/
theorem reqShape_raiseReqFault {o : Issued} (hf : raisedByReq f = true) : ReqShape (raiseReqFault f o s) := by
  have hhalted : halted (raiseReqFault f o s) = true := by
    rw [halted, raiseReqFault_faults, any_addFault, hf, Bool.true_or]
  exact .inl ⟨rfl, hhalted⟩

/-- A waiting operation is held with its checks passed. -/
theorem reqShape_holdAt (hw : waits i = true) (hh : halted s = false) (hc : precheck i s = none) :
    ReqShape (holdAt i s) := .inr ⟨hh, i, rfl, hw, hc⟩

/-- The operation that the requester is held at has passed its checks. -/
theorem ReqShape.precheck_of_heldAt (h : ReqShape s) (hheld : HeldAt i s) : precheck i s = none := by
  obtain ⟨hh, hop⟩ := hheld
  simp only [ReqShape, hop, hh] at h
  rcases h with ⟨-, hhalted⟩ | ⟨-, j, hj, -, hc⟩
  · cases hhalted
  · obtain rfl : i = j := by simpa using hj
    exact hc

theorem reqShape_startOf (hidle : Idle s) (hc : precheck i s = none) : ReqShape (startOf p i s) := by
  obtain ⟨hh, hop⟩ := hidle
  cases hw : waits i with
  | false =>
    obtain ⟨hfaults, -, -, -, -, -, heffop⟩ := effectOf_frame p i s
    rw [startOf_of_not_waits hw]
    exact reqShape_none (heffop.trans hop) ((halted_congr hfaults).trans hh)
  | true =>
    rcases startOf_of_waits (p := p) (s := s) hw with e | ⟨b, rfl, e⟩ <;> rw [e]
    · exact reqShape_holdAt hw hh hc
    · exact reqShape_holdAt hw hh hc

theorem ReqShape.resumeOf (h : ReqShape s) (hh : halted s = false) : ReqShape (resumeOf p i s) := by
  rcases resumeOf_cases p i s with ⟨-, -, e⟩ | e <;> rw [e]
  · obtain ⟨hfaults, -⟩ := effectOf_frame p i s
    exact reqShape_none rfl ((halted_congr hfaults).trans hh)
  · exact h

/-- No other agent halts the requester: a frame's faults are none of its own (60_exceptions.md R211). -/
theorem halted_agentStep (p : Params) (m : Move) (s : State) : halted (agentStep p m s) = halted s := by
  obtain ⟨-, -, -, -, -, -, -, -, -, -, -, -, -, hfaults, -⟩ := agentFrame p m s
  cases m with
  | up d ok =>
    show halted (upFrame p d ok s) = halted s
    rcases upFrame_cases p d ok s with ⟨-, e⟩ | ⟨-, u, hu, hcase⟩
    · rw [e, raiseFault_halted]; rfl
    · have hhu : halted u = halted s := by
        rcases hu with ⟨rfl, -⟩ | ⟨rfl, -⟩
        · rfl
        · rw [raiseFault_halted]; rfl
      rcases hcase with ⟨-, e⟩ | ⟨-, e⟩ <;> rw [e, ← hhu]
      · rw [raiseFault_halted]; rfl
      · rfl
  | req | utx | spie | lt | ft =>
    obtain ⟨-, -, hsame⟩ := hfaults nofun
    exact halted_congr hsame

/-- No other agent writes what the checks read. -/
theorem precheck_agentStep (p : Params) (m : Move) (i : Instr) (s : State) :
    precheck i (agentStep p m s) = precheck i s := by
  obtain ⟨-, hpins, -, -, -, -, -, -, -, hft, hspi, huart, -⟩ := agentFrame p m s
  exact precheck_congr i (by rw [hpins]) (by rw [huart]) (by rw [hspi]) (by rw [hft])

theorem ReqShape.agentStep (h : ReqShape s) (m : Move) : ReqShape (agentStep p m s) := by
  obtain ⟨-, -, hreq, -⟩ := agentFrame p m s
  exact h.congr (by rw [hreq]) (halted_agentStep p m s) fun i => precheck_agentStep p m i s

/-! ### Both along every step -/

theorem setupAndReqShape_execWith (h : SetupShape s ∧ ReqShape s) (hx : execWith p i s = .next t) :
    SetupShape t ∧ ReqShape t := by
  obtain ⟨hsetup, hreq⟩ := h
  rcases execWith_cases hx with ⟨-, rfl⟩ | ⟨-, f, hf, rfl⟩ | ⟨hidle, hc, rfl⟩ | ⟨hheld, rfl⟩ | ⟨-, -, rfl⟩
  · exact ⟨hsetup, hreq⟩
  · exact ⟨hsetup.congr rfl, reqShape_raiseReqFault (raisedByReq_of_precheck hf)⟩
  · exact ⟨(hsetup.startOf hc).congr rfl, (reqShape_startOf hidle hc).congr rfl rfl fun _ => rfl⟩
  · have hc : precheck i s = none := hreq.precheck_of_heldAt hheld
    exact ⟨(hsetup.resumeOf hc).congr rfl, (hreq.resumeOf hheld.1).congr rfl rfl fun _ => rfl⟩
  · exact ⟨hsetup, hreq⟩

theorem setupAndReqShape_useChoice (h : SetupShape s ∧ ReqShape s) :
    SetupShape (useChoice s) ∧ ReqShape (useChoice s) := by
  obtain ⟨hsetup, hplace⟩ := h
  obtain ⟨hpins, huart, hspi, hlt, hft, -, hfaults, hreq⟩ := useChoice_frame s
  have hc (i : Instr) : precheck i (useChoice s) = precheck i s :=
    precheck_congr i (by rw [hpins]) (by rw [huart]) (by rw [hspi]) (by rw [hft])
  exact ⟨hsetup.congr (by simp [units, hpins, huart, hspi, hlt, hft]),
    hplace.congr (by rw [hreq]) (halted_congr hfaults) hc⟩

end

/-- Settles O53: setup's shape is kept because an operation's writes come after its checks, also where it was held in between,
and that its checks still pass is part of the requester's place; so the two are kept together. -/
theorem stepKeepsSetupAndRequester : Obligations.StepKeepsSetupAndRequester :=
  fun _ _ _ h hx => stepWith_keeps (P := fun s => SetupShape s ∧ ReqShape s)
    (hchoice := fun _ h => setupAndReqShape_useChoice h)
    (hline := fun _ _ _ _ ⟨hsetup, hreq⟩ => ⟨hsetup.congr rfl, hreq.congr rfl rfl fun _ => rfl⟩)
    (hill := fun _ _ _ ⟨hsetup, _⟩ => ⟨hsetup.congr rfl, reqShape_raiseReqFault rfl⟩)
    (hagent := fun m _ _ ⟨hsetup, hreq⟩ => ⟨(hsetup.agentEffect m).congr rfl, hreq.agentStep m⟩)
    (hexec := fun _ _ _ h hx => setupAndReqShape_execWith h hx) h hx

/-! ### The setup operations (40_init.md R100 to R104) -/

/-- Settles O12: each clause names the first check that fails, or has them all pass, and then the issue adds no fault. -/
theorem commonChecksInOrder : Obligations.CommonChecksInOrder := by
  intro s hidle halt
  have hfault (i : Instr) (f : FaultRecord) (h : precheck i s = some f) : exec i s = halt i f := exec_fault hidle h
  refine ⟨fun i hi hr => hfault i _ (precheck_of_not_ready hi hr),
    fun hr => ⟨?uartInit, ?spiInit, ?flickerStart, ?uart, ?spi⟩, ?passed⟩
  case uartInit => exact fun h => hfault _ _ (by simp [precheck, Instr.name, hr, h])
  case spiInit => exact fun h => hfault _ _ (by simp [precheck, Instr.name, hr, h])
  case flickerStart => exact fun h => hfault _ _ (by simp [precheck, Instr.name, hr, h])
  case uart =>
    exact fun h => ⟨hfault _ _ (by simp [precheck, Instr.name, hr, h]),
      fun b => hfault _ _ (by simp [precheck, Instr.name, hr, h])⟩
  case spi => exact fun h b => hfault _ _ (by simp [precheck, Instr.name, hr, h])
  case passed =>
    intro i t hx hready huartInit hspiInit hflicker huart hspi
    have hpass : precheck i s = none := (precheck_eq_none i s).mpr
      ⟨hready.imp_left (congrArg Instr.name), fun h => huartInit (eq_of_name_eq h rfl),
        fun h => hspiInit (eq_of_name_eq h rfl), fun h => hflicker (eq_of_name_eq h rfl), huart, hspi⟩
    rw [exec_start hidle hpass] at hx
    injection hx with hx
    obtain ⟨hfaults, -⟩ := startOf_frame Config.params i s
    rw [← hx, recordEdges_faults, hfaults]

/-- Settles O17: PIN_INIT passes every check, so the step is its writes, which are there already the second time. -/
theorem pinInitResult : Obligations.PinInitResult := by
  refine ⟨fun s hidle => exec_start hidle (precheck_pinInit s), ⟨_, rfl, rfl, rfl⟩, fun s hidle hsetup hr => ?_⟩
  rw [exec_start hidle (precheck_pinInit s)]
  show Host.Outcome.next (recordEdges s (pinInit s)) = .next s
  rw [hsetup.pinInit_eq hr, recordEdges_self]

/-- Settles O18: the checks pass, so the step is the operation's writes, which move no timed line. -/
theorem uartInitAndSpiInitResult : Obligations.UartInitAndSpiInitResult := by
  intro s hidle hr
  refine ⟨fun hu => ?_, fun hs => ?_⟩
  · rw [exec_start hidle ((precheck_eq_none _ _).mpr (by simp [Instr.name, hr, hu]))]
    exact congrArg _ (recordEdges_of_same rfl rfl rfl)
  · rw [exec_start hidle ((precheck_eq_none _ _).mpr (by simp [Instr.name, hr, hs]))]
    exact congrArg _ (recordEdges_of_same rfl rfl rfl)

/-- Settles O20: a setup operation does nothing, raises its fault, or makes its own writes and records their edges. -/
theorem setupFrame : Obligations.SetupFrame := by
  intro p i s t hi h
  obtain ⟨q, hx⟩ : ∃ q, execWith q i s = .next t := by
    rcases h with h | h
    · exact ⟨_, exec_eq_execWith i s ▸ h⟩
    · exact ⟨p, h⟩
  simp only [List.mem_cons, List.not_mem_nil, or_false] at hi
  have hw : waits i = false := by
    rcases hi with rfl | rfl | rfl | rfl <;> rfl
  rcases execWith_cases_of_not_waits hw hx with rfl | ⟨-, f, -, rfl⟩ | ⟨-, -, rfl⟩
  · simp
  · simp [prefix_addFault]
  · rcases hi with rfl | rfl | rfl | rfl
    · simp [effectOf, pinInit]
    · simp [effectOf, uartInit]
    · simp [effectOf, spiInit]
    · simp [effectOf, flickerStart]

end Sys2Proof.Machine

namespace Sys2Proof.Machine

/-! ### What one move may do to the transfer (41_spi.md R121, R122) -/

section
variable {p : Params} {m : Move} {i : Instr} {b : Byte} {s t : State}

/-- SPI_XFER of `b` has been issued and has not returned (10_state.md R41). -/
abbrev InTransfer (b : Byte) (s : State) : Prop := s.req.op = some { issued := .op (.spiXfer b), stage := 1 }

/-- Both sides of the bus are as they were (10_state.md R32). -/
abbrev SameBus (s t : State) : Prop := t.hist.busOut = s.hist.busOut ∧ t.hist.busIn = s.hist.busIn

/-- Everything the move `m` may do to the SPI unit, the bus and the SPI_XFER in progress. -/
inductive TransferStep (m : Move) (s t : State) : Prop where
  | keep (hspi : t.spi = s.spi) (hbus : SameBus s t) (hop : ∀ b, InTransfer b t ↔ InTransfer b s)
  | setup (hidle : s.req.op = none) (hspi : t.spi = { s.spi with en := true, done := false }) (hbus : SameBus s t)
      (hop : t.req.op = none)
  | start (b : Byte) (hm : m = .req) (hidle : s.req.op = none) (hspi : t.spi = { s.spi with shiftOut := some b })
      (hbus : SameBus s t) (hop : InTransfer b t)
  | complete (b r : Byte) (hm : m = .spie) (hshift : s.spi.shiftOut = some b)
      (hspi : t.spi = { s.spi with rx := r, done := true, shiftOut := none })
      (hout : t.hist.busOut = s.hist.busOut ++ [b]) (hin : t.hist.busIn = s.hist.busIn ++ [r])
      (hop : t.req.op = s.req.op)
  | collect (b : Byte) (hheld : InTransfer b s) (hdone : s.spi.done = true) (hspi : t.spi = { s.spi with done := false })
      (hbus : SameBus s t) (hop : t.req.op = none)

theorem TransferStep.refl (m : Move) (s : State) : TransferStep m s s := .keep rfl ⟨rfl, rfl⟩ fun _ => Iff.rfl

/-- Taking a line up is no part of a transfer. -/
theorem TransferStep.of_takeLine {r : Request} {rest : List Request} (h : TransferStep m (takeLine r rest s) t) :
    TransferStep m s t := by
  cases h with
  | keep hspi hbus hop => exact .keep hspi hbus hop
  | setup hidle hspi hbus hop => exact .setup hidle hspi hbus hop
  | start b hm hidle hspi hbus hop => exact .start b hm hidle hspi hbus hop
  | complete b r hm hshift hspi hout hin hop => exact .complete b r hm hshift hspi hout hin hop
  | collect b hheld hdone hspi hbus hop => exact .collect b hheld hdone hspi hbus hop

@[simp] theorem uartTake_spi (s : State) : (uartTake s).spi = s.spi := by
  unfold uartTake
  split
  · exact deliver_spi _ _
  · rfl

/-- Of the operations' effects only SPI_INIT's and SPI_XFER's touch the SPI unit. -/
theorem effectOf_spi (hinit : i ≠ .spiInit) (hxfer : ∀ b, i ≠ .spiXfer b) : (effectOf p i s).spi = s.spi := by
  cases i with
  | spiInit => exact absurd rfl hinit
  | spiXfer b => exact absurd rfl (hxfer b)
  | latchRead => exact deliver_spi _ _
  | uartRecv => exact uartTake_spi s
  | pinInit | uartInit | flickerStart | latchWaitLow | latchDisconnect | latchTimerStop | latchDriveHigh | latchArm
  | uartSend _ => rfl

theorem effectOf_sameBus (p : Params) (i : Instr) (s : State) : SameBus s (effectOf p i s) := by
  obtain ⟨-, -, -, hhist, -⟩ := effectOf_frame p i s
  simp [SameBus, hhist]

/-- An issue with no operation in progress: SPI_XFER's starts a transfer, SPI_INIT's clears the flag. -/
theorem TransferStep.startOf (hidle : s.req.op = none) : TransferStep .req s (recordEdges s (startOf p i s)) := by
  have hbus := effectOf_sameBus p i s
  obtain ⟨-, -, -, -, -, -, hop⟩ := effectOf_frame p i s
  cases i with
  | spiXfer b => exact .start b rfl hidle rfl ⟨rfl, rfl⟩ rfl
  | spiInit => exact .setup hidle rfl ⟨rfl, rfl⟩ hidle
  | latchWaitLow | uartRecv | uartSend _ =>
    exact .keep rfl ⟨rfl, rfl⟩ fun b => by simp [Machine.startOf, InTransfer, hidle]
  | pinInit | uartInit | flickerStart | latchDisconnect | latchTimerStop | latchDriveHigh | latchArm | latchRead =>
    exact .keep (effectOf_spi nofun nofun) hbus fun b => Eq.congr_left hop

/-- What follows the `await` of the operation held: SPI_XFER's is the collection of its result. -/
theorem TransferStep.resumeOf (hheld : HeldAt i s) : TransferStep .req s (recordEdges s (resumeOf p i s)) := by
  rcases resumeOf_cases p i s with ⟨hw, hdone, e⟩ | e <;> rw [e]
  · have hbus := effectOf_sameBus p i s
    obtain ⟨-, hop⟩ := hheld
    cases i with
    | spiXfer b => exact .collect b hop hdone (deliver_spi _ _) hbus rfl
    | latchWaitLow | uartRecv | uartSend _ =>
      exact .keep (effectOf_spi nofun nofun) hbus fun b => by simp [InTransfer, hop]
    | _ => cases hw
  · rw [recordEdges_self]
    exact .refl _ s

/-- A fault of the requester leaves it in no transfer, where it was in none before. -/
theorem TransferStep.raiseReqFault (f : FaultRecord) (o : Issued) (hidle : s.req.op = none) :
    TransferStep .req s (raiseReqFault f o s) :=
  .keep rfl ⟨rfl, rfl⟩ fun b => by simp [InTransfer, hidle]

theorem TransferStep.execWith (h : execWith p i s = .next t) : TransferStep .req s t := by
  rcases execWith_cases h with ⟨-, rfl⟩ | ⟨hidle, f, -, rfl⟩ | ⟨hidle, -, rfl⟩ | ⟨hheld, rfl⟩ | ⟨-, -, rfl⟩
  · exact .refl _ _
  · exact .raiseReqFault f _ hidle.2
  · exact .startOf hidle.2
  · exact .resumeOf hheld
  · exact .refl _ _

/-- The engine's step is the completion of the byte being shifted out, which moves no timed line. -/
theorem agentStep_spie (hen : s.spi.en = true) (hshift : s.spi.shiftOut = some b) :
    agentStep p .spie s = spieComplete p b s := by
  have heffect : agentEffect p .spie s = spieComplete p b s := by simp [agentEffect, spieStep, hen, hshift]
  exact agentStep_of_effect heffect rfl rfl rfl

/-- Of the agents beside the requester only the engine takes part in a transfer. -/
theorem TransferStep.agentStep (p : Params) (m : Move) (s : State) : TransferStep m s (agentStep p m s) := by
  obtain ⟨-, -, hreq, -, -, -, -, hspi, -, -, -, -, -, -, hbus, -⟩ := agentFrame p m s
  by_cases hm : m = .spie
  · subst hm
    rcases spieStep_cases p s with ⟨hen, b, hshift, -⟩ | ⟨hdisabled, -⟩
    · rw [agentStep_spie hen hshift]
      exact .complete b (p.chain s.hist.busOut b) rfl hshift rfl rfl rfl rfl
    · rw [agentStep_of_disabled (m := .spie) nofun hdisabled]
      exact .refl _ s
  · exact .keep (hspi hm) (hbus hm) fun b => by rw [InTransfer, hreq]

theorem TransferStep.takeMove (h : takeMove p m s = .next t) : TransferStep m s t := by
  rcases takeMove_cases h with ⟨rfl, h⟩ | ⟨-, rfl⟩
  · rcases reqStep_cases h with rfl | ⟨-, i, -, -, h⟩ | ⟨-, r, rest, i, -, -, h⟩ | ⟨hidle, r, rest, e, -, -, rfl⟩
    · exact .refl _ _
    · exact .execWith h
    · exact (TransferStep.execWith h).of_takeLine
    · have hfault : TransferStep .req (takeLine r rest s) (raiseIllegal r.word (takeLine r rest s)) :=
        .raiseReqFault _ _ hidle.2
      exact hfault.of_takeLine
  · exact .agentStep p m s

/-! ### The transfer protocol along every step -/

/-- The protocol speaks of the SPI unit, the bus and the SPI_XFER in progress only. -/
theorem SpiProtocol.congr (h : SpiProtocol s) (hspi : t.spi = s.spi) (hbus : SameBus s t)
    (hop : ∀ b, InTransfer b t ↔ InTransfer b s) : SpiProtocol t := by
  obtain ⟨hout, hin⟩ := hbus
  constructor
  case shifting => simpa only [hspi, hop] using h.shifting
  case complete => simpa only [hspi, hop, hout, hin] using h.complete
  case held => simpa only [hspi, hop] using h.held

/-- No transfer is in progress or complete, and no SPI_XFER waits for one. -/
theorem SpiProtocol.of_quiet (hshift : t.spi.shiftOut = none) (hdone : t.spi.done = false) (hop : t.req.op = none) :
    SpiProtocol t := by
  constructor <;> simp [hshift, hdone, hop]

/-- The byte of the SPI_XFER in progress is being shifted out. -/
theorem SpiProtocol.of_shifting (hop : InTransfer b t) (hshift : t.spi.shiftOut = some b) (hdone : t.spi.done = false) :
    SpiProtocol t := by
  constructor <;> simp [hshift, hdone, hop]

/-- The transfer of the SPI_XFER in progress is complete. -/
theorem SpiProtocol.of_complete (hop : InTransfer b t) (hshift : t.spi.shiftOut = none) (hdone : t.spi.done = true)
    (hout : t.hist.busOut.getLast? = some b) (hin : t.hist.busIn.getLast? = some t.spi.rx) : SpiProtocol t := by
  constructor <;> simp [hshift, hdone, hop, hout, hin]

/-- With no operation in progress no transfer is in progress or complete. -/
theorem SpiProtocol.quiet_of_idle (h : SpiProtocol s) (hidle : s.req.op = none) :
    s.spi.shiftOut = none ∧ s.spi.done = false := by
  constructor
  · by_contra hshift
    obtain ⟨b, hb⟩ := Option.ne_none_iff_exists'.mp hshift
    exact absurd (hidle.symm.trans (h.shifting b hb).1) nofun
  · by_contra hdone
    obtain ⟨-, b, hop, -⟩ := h.complete (Bool.eq_true_of_not_eq_false hdone)
    exact absurd (hidle.symm.trans hop) nofun

theorem SpiProtocol.transferStep (h : SpiProtocol s) (hstep : TransferStep m s t) : SpiProtocol t := by
  cases hstep with
  | keep hspi hbus hop => exact h.congr hspi hbus hop
  | setup hidle hspi _ hop =>
    obtain ⟨hshift, -⟩ := h.quiet_of_idle hidle
    exact .of_quiet (by simp [hspi, hshift]) (by simp [hspi]) hop
  | start b _ hidle hspi _ hop =>
    obtain ⟨-, hdone⟩ := h.quiet_of_idle hidle
    exact .of_shifting hop (by simp [hspi]) (by simp [hspi, hdone])
  | complete b r _ hshift hspi hout hin hop =>
    obtain ⟨hheld, -⟩ := h.shifting b hshift
    exact .of_complete (hop.trans hheld) (by simp [hspi]) (by simp [hspi]) (by simp [hout]) (by simp [hin, hspi])
  | collect b _ hdone hspi _ hop =>
    obtain ⟨hshift, -⟩ := h.complete hdone
    exact .of_quiet (by simp [hspi, hshift]) (by simp [hspi]) hop

theorem SpiProtocol.useChoice (h : SpiProtocol s) : SpiProtocol (useChoice s) := by
  obtain ⟨-, -, hspi, -, -, hhist, -, hreq⟩ := useChoice_frame s
  exact h.congr hspi (by simp [SameBus, hhist]) fun b => by rw [InTransfer, hreq]

/-- In flight a transfer is left alone by every move but the engine's (41_spi.md R122). -/
theorem TransferStep.spi_of_shifting (hstep : TransferStep m s t) (h : SpiProtocol s) (hshift : s.spi.shiftOut = some b)
    (hm : m ≠ .spie) : t.spi = s.spi := by
  obtain ⟨hheld, hdone⟩ := h.shifting b hshift
  have hbusy : s.req.op ≠ none := by simp [hheld]
  cases hstep with
  | keep hspi _ _ => exact hspi
  | setup hidle _ _ _ => exact absurd hidle hbusy
  | start _ _ hidle _ _ _ => exact absurd hidle hbusy
  | complete _ _ hspie _ _ _ _ _ => exact absurd hspie hm
  | collect _ _ hdone' _ _ _ => simp [hdone] at hdone'

end

/-- Settles O24: a move takes a transfer from one phase of the protocol to the next, or leaves it alone. -/
theorem stepKeepsSpiProtocol : Obligations.StepKeepsSpiProtocol :=
  fun _ _ _ h hx => h.useChoice.transferStep (.takeMove hx)

/-- Settles O26: the start of an SPI_XFER finds the shift register empty and puts its byte there, and the completion moves it from
there to the end of `hist.bus_out`. -/
theorem busBytesFollowTransfers : Obligations.BusBytesFollowTransfers := by
  intro p m s t h hx
  cases TransferStep.takeMove hx with
  | keep hspi hbus _ => exact .inl (by simp [busStream, hspi, hbus.1])
  | setup _ hspi hbus _ => exact .inl (by simp [busStream, hspi, hbus.1])
  | start b hm hidle hspi hbus hop =>
    obtain ⟨hshift, -⟩ := h.quiet_of_idle hidle
    exact .inr ⟨hm, hidle, b, hop, by simp [busStream, hspi, hbus.1, hshift]⟩
  | complete b r _ hshift hspi hout _ _ => exact .inl (by simp [busStream, hspi, hout, hshift])
  | collect _ _ _ hspi hbus _ => exact .inl (by simp [busStream, hspi, hbus.1])

/-- Settles O23: the engine's enabling condition and its completion are read off its step, and in flight no other move writes the
unit. -/
theorem engineStepCompletesTransfer : Obligations.EngineStepCompletesTransfer := by
  refine ⟨fun s => ?enabled, fun p s b hen hshift => agentStep_spie hen hshift,
    fun p m s t b h hshift hm hx => (TransferStep.takeMove hx).spi_of_shifting h hshift hm⟩
  case enabled => simp [moveEnabled, spieEnabled, Option.isSome_iff_exists]

end Sys2Proof.Machine

namespace Sys2Proof.Machine

/-! ### SPI_XFER's two stages (41_spi.md R121) -/

section
variable {b : Byte} {s : State}

/-- The issue hands the byte to the unit and leaves the operation held. -/
theorem exec_spiXfer_start (h : Idle s) (hc : precheck (.spiXfer b) s = none) :
    exec (.spiXfer b) s = .next (holdAt (.spiXfer b) (spiStart b s)) := by
  rw [exec_start h hc]
  exact congrArg _ (recordEdges_of_same rfl rfl rfl)

/-- Collecting clears the flag and delivers the byte received, and changes nothing else. -/
theorem spiCollect_eq (s : State) :
    spiCollect s =
      { s with spi := { s.spi with done := false }, req := { s.req with x := (spiCollect s).req.x } } :=
  deliver_eq _ _

/-- Every variable but the destination is as it was. -/
theorem readVar_spiCollect_ne {k : Nat} (h : s.req.dst ≠ some k) :
    readVar (spiCollect s).req.x k = readVar s.req.x k :=
  readVar_deliver_ne (s := s.setSpi { s.spi with done := false }) h

/-- Everything SPI_XFER can do: nothing; the fault of a failed check; its start; the collection of its result. -/
theorem exec_spiXfer_cases {t : State} (h : exec (.spiXfer b) s = .next t) :
    t = s ∨ (∃ f, t = raiseReqFault f (.op (.spiXfer b)) s) ∨ t = holdAt (.spiXfer b) (spiStart b s) ∨
    t = (spiCollect s).setOp none := by
  have hx : execWith Config.params (.spiXfer b) s = .next t := exec_eq_execWith _ s ▸ h
  rcases execWith_cases hx with ⟨-, rfl⟩ | ⟨-, f, -, rfl⟩ | ⟨hidle, hc, -⟩ | ⟨hheld, -⟩ | ⟨-, -, rfl⟩
  · exact .inl rfl
  · exact .inr (.inl ⟨f, rfl⟩)
  · rw [exec_spiXfer_start hidle hc] at h
    injection h with h
    exact .inr (.inr (.inl h.symm))
  · rw [exec_spiXfer_held hheld] at h
    injection h with h
    split at h
    · exact .inr (.inr (.inr h.symm))
    · exact .inl h.symm
  · exact .inl rfl

end

/-- Settles O21: with the setup done the issue passes its checks, and the held operation waits for the flag and then collects. -/
theorem spiXferResult : Obligations.SpiXferResult := by
  intro b s
  refine ⟨fun hidle hr hen => ?start, fun hheld hdone => ?wait, fun hheld hdone => ?collect⟩
  case start => exact exec_spiXfer_start hidle ((precheck_eq_none _ _).mpr (by simp [Instr.name, hr, hen]))
  case wait => rw [exec_spiXfer_held hheld, hdone, if_neg Bool.false_ne_true]
  case collect =>
    refine ⟨(spiCollect s).setOp none, by rw [exec_spiXfer_held hheld, if_pos hdone], ?_, ?_, fun n hdst => ⟨?_, ?_⟩⟩
    · exact congrArg (·.setOp none) (spiCollect_eq s)
    · exact deliver_discarded (s := s.setSpi { s.spi with done := false })
    · exact readVar_spiCollect hdst
    · exact fun k hk => readVar_spiCollect_ne fun h => hk (Option.some.inj (h.symm.trans hdst))

/-- Settles O22: each of the four things that SPI_XFER can do changes only what the statement leaves free. -/
theorem spiXferFrame : Obligations.SpiXferFrame := by
  intro b s t h
  rcases exec_spiXfer_cases h with rfl | ⟨f, rfl⟩ | rfl | rfl
  · simp
  · simp [prefix_addFault]
  · simp [spiStart]
  · have hvars (k : Nat) (hk : s.req.dst ≠ some k) := readVar_spiCollect_ne hk
    rw [spiCollect_eq]
    simpa using hvars

/-! ### The reference chains (41_spi.md R131, R132) -/

section
variable {p : Params} {s : State}

/-- A transfer seen from the bus is the engine's completion of the byte handed over. -/
theorem busTransfer_eq (hen : s.spi.en = true) (b : Byte) : busTransfer p s b = spieComplete p b (spiStart b s) :=
  agentStep_spie (s := spiStart b s) hen rfl

/-- A chain of N stages is a delay line: its answers are the stream of its initial contents and the bytes sent, in order. -/
theorem shiftChain_eq_getElem? {init : List Byte} (hpos : 1 ≤ init.length) (h : List Byte) (b : Byte) :
    some (shiftChain init.length init h b) = (init ++ h)[h.length]? := by
  unfold shiftChain
  split
  case isTrue hlt =>
    have hlt : h.length < init.length := hlt
    simp [List.getElem?_append_left, List.getD_eq_getElem?_getD, hlt]
  case isFalse hge =>
    have hlt : h.length - init.length < h.length := by omega
    rw [List.getElem?_append_right (by omega)]
    simp [List.getD_eq_getElem?_getD, hlt]

/-- After any transfers through a chain of N stages from empty histories, the answers are the delay line's first ones. -/
theorem busTransfers_shiftChain {init : List Byte} (hpos : 1 ≤ init.length) (hchain : p.chain = shiftChain init.length init)
    (hen : s.spi.en = true) (hout : s.hist.busOut = []) (hin : s.hist.busIn = []) (bs : List Byte) :
    let t := bs.foldl (busTransfer p) s
    t.spi.en = true ∧ t.hist.busOut = bs ∧ t.hist.busIn = (init ++ bs).take bs.length := by
  induction bs using List.reverseRecOn with
  | nil => exact ⟨hen, hout, hin⟩
  | append_singleton bs b ih =>
    obtain ⟨hen', hout', hin'⟩ := ih
    rw [List.foldl_append, List.foldl_cons, List.foldl_nil, busTransfer_eq hen']
    refine ⟨hen', by simp [spieComplete, spiStart, hout'], ?_⟩
    have hanswer := shiftChain_eq_getElem? hpos bs b
    have hlen : bs.length + 1 ≤ (init ++ bs).length := by rw [List.length_append]; omega
    calc (spieComplete p b (spiStart b (bs.foldl (busTransfer p) s))).hist.busIn
      _ = (init ++ bs).take bs.length ++ [shiftChain init.length init bs b] := by
            simp [spieComplete, spiStart, hout', hin', hchain]
      _ = (init ++ bs).take (bs.length + 1) := by rw [List.take_add_one, ← hanswer]; rfl
      _ = (init ++ (bs ++ [b])).take (bs ++ [b]).length := by
            rw [← List.append_assoc, List.length_append, List.length_singleton, List.take_append_of_le_length hlen]

end

/-- Settles O27: the answers of the chain of N stages are those of a delay line, which the statement spells out by position;
`noChain` answers 0xFF to everything. -/
theorem referenceChainsAnswer : Obligations.ReferenceChainsAnswer := by
  refine ⟨?shift, fun p s b hchain hen => ?noChain⟩
  case shift =>
    rintro p n init bs s hn rfl hchain hen hout hin
    obtain ⟨-, hsent, hanswers⟩ := busTransfers_shiftChain hn hchain hen hout hin bs
    refine ⟨hsent, by simp [hanswers], fun k hk => ?_⟩
    rw [hanswers, List.getElem?_take_of_lt hk, List.getElem?_append]
  case noChain =>
    rw [busTransfer_eq hen]
    simp [spieComplete, hchain, noChain]

/-! ### The select line (41_spi.md R126) -/

/-- The select line of `s` keeps the level bit that it had in `r`, and stays an output where it was one. -/
structure SelectKept (r s : State) : Prop where
  port : s.pins.port.ss = r.pins.port.ss
  ddr  : r.pins.ddr.ss = true → s.pins.ddr.ss = true

section
variable {p : Params} {r s t : State}

theorem SelectKept.refl (r : State) : SelectKept r r := ⟨rfl, id⟩

theorem SelectKept.congr (h : SelectKept r s) (hp : t.pins = s.pins) : SelectKept r t := by
  constructor
  case port => simpa only [hp] using h.port
  case ddr => simpa only [hp] using h.ddr

@[simp] theorem uartTake_pins (s : State) : (uartTake s).pins = s.pins := by
  unfold uartTake
  split
  · exact deliver_pins _ _
  · rfl

/-- No operation writes the select line's level bit, and PIN_INIT makes it an output. -/
theorem SelectKept.effectOf (h : SelectKept r s) (i : Instr) : SelectKept r (effectOf p i s) := by
  cases i with
  | pinInit => exact ⟨h.port, fun _ => rfl⟩
  | latchDisconnect | latchDriveHigh => exact ⟨h.port, h.ddr⟩
  | spiXfer _ | latchRead => exact h.congr (deliver_pins _ _)
  | uartRecv => exact h.congr (uartTake_pins s)
  | uartInit | spiInit | flickerStart | latchWaitLow | latchTimerStop | latchArm | uartSend _ => exact h.congr rfl

theorem SelectKept.execWith {i : Instr} (h : SelectKept r s) (hx : execWith p i s = .next t) : SelectKept r t :=
  execWith_keeps (P := SelectKept r)
    (hop := fun _ _ h => h.congr rfl) (hedges := fun _ _ h => h.congr rfl) (hfault := fun _ _ _ _ h => h.congr rfl)
    (hspi := fun _ _ h => h.congr rfl) (heffect := fun i _ h => h.effectOf i) i s t h hx

theorem SelectKept.agentStep (h : SelectKept r s) (m : Move) : SelectKept r (agentStep p m s) := by
  obtain ⟨-, hpins, -⟩ := agentFrame p m s
  exact h.congr hpins

theorem SelectKept.useChoice (h : SelectKept r s) : SelectKept r (useChoice s) := by
  obtain ⟨hpins, -⟩ := useChoice_frame s
  exact h.congr hpins

theorem SelectKept.stepWith (h : SelectKept r s) (hx : stepWith p s = .next t) : SelectKept r t :=
  stepWith_keeps (P := SelectKept r)
    (hchoice := fun _ h => h.useChoice) (hline := fun _ _ _ _ h => h.congr rfl) (hill := fun _ _ _ h => h.congr rfl)
    (hagent := fun m _ _ h => h.agentStep m) (hexec := fun _ _ _ h hx => h.execWith hx) h hx

/-- An output line without a timer shows its port bit (entry 17). -/
theorem level_ss (h : s.pins.ddr.ss = true) : level s .ss = drive s.pins.port.ss := by simp [level, pinBit, h]

end

/-- Settles O28: every step keeps the line's level bit and its direction once it is an output, as PIN_INIT makes it. -/
theorem selectLineNeverMoves : Obligations.SelectLineNeverMoves := by
  intro p s t hx
  have hkept : SelectKept s t := (SelectKept.refl s).stepWith hx
  refine ⟨hkept.port, fun hsetup hr => ?_⟩
  obtain ⟨hinit, -, -, -, -, -, hport, -⟩ := hsetup.after hr
  have hddr : s.pins.ddr.ss = true := by simp [hinit, initDdr]
  rw [level_ss hddr, level_ss (hkept.ddr hddr), hkept.port, hport]
  exact ⟨rfl, rfl⟩

end Sys2Proof.Machine

namespace Sys2Proof.Machine

/-! ### The six latch operations (42_latch_flicker.md R141 to R146) -/

/-- The six operations on the latch line (42_latch_flicker.md R141 to R146). -/
abbrev latchOps : List Instr :=
  [.latchWaitLow, .latchDisconnect, .latchTimerStop, .latchDriveHigh, .latchArm, .latchRead]

section
variable {p : Params} {i : Instr} {s t : State}

/-- PIN_INIT is all the setup a latch operation needs (40_init.md R100, R105). -/
theorem precheck_latch (hi : i ∈ latchOps) (hr : s.pins.ready = true) : precheck i s = none := by
  rw [precheck_eq_none]
  simp only [latchOps, List.mem_cons, List.not_mem_nil, or_false] at hi
  rcases hi with rfl | rfl | rfl | rfl | rfl | rfl <;> simp [Instr.name, hr]

/-- A latch operation other than LATCH_WAIT_LOW is done in its one step. -/
theorem execWith_latch (hidle : Idle s) (hr : s.pins.ready = true) (hi : i ∈ latchOps) (hw : waits i = false) :
    execWith p i s = .next (recordEdges s (effectOf p i s)) := by
  rw [execWith_start hidle (precheck_latch hi hr), startOf_of_not_waits hw]

theorem exec_latch (hidle : Idle s) (hr : s.pins.ready = true) (hi : i ∈ latchOps) (hw : waits i = false) :
    exec i s = .next (recordEdges s (effectOf Config.params i s)) := by
  rw [exec_eq_execWith, execWith_latch hidle hr hi hw]

/-- A latch operation whose writes stand there already changes nothing. -/
theorem exec_latch_of_fixed (hidle : Idle s) (hr : s.pins.ready = true) (hi : i ∈ latchOps) (hw : waits i = false)
    (hfix : effectOf Config.params i s = s) : exec i s = .next s := by
  rw [exec_latch hidle hr hi hw, hfix, recordEdges_self]

/-- Everything a latch operation can do: nothing; its fault; or its effect, with `req.op` written where it waits. -/
theorem execWith_latch_cases (hi : i ∈ latchOps) (h : execWith p i s = .next t) :
    t = s ∨ (∃ f, t = raiseReqFault f (.op i) s) ∨ ∃ op, t = recordEdges s ((effectOf p i s).setOp op) := by
  cases hw : waits i with
  | false =>
    rcases execWith_cases_of_not_waits hw h with rfl | ⟨-, f, -, rfl⟩ | ⟨-, -, rfl⟩
    · exact .inl rfl
    · exact .inr (.inl ⟨f, rfl⟩)
    · exact .inr (.inr ⟨_, congrArg _ (setOp_self rfl).symm⟩)
  | true =>
    obtain rfl : i = .latchWaitLow := by
      simp only [latchOps, List.mem_cons, List.not_mem_nil, or_false] at hi
      rcases hi with rfl | rfl | rfl | rfl | rfl | rfl
      · rfl
      all_goals cases hw
    rcases execWith_cases h with ⟨-, rfl⟩ | ⟨-, f, -, rfl⟩ | ⟨-, -, rfl⟩ | ⟨-, rfl⟩ | ⟨-, -, rfl⟩
    · exact .inl rfl
    · exact .inr (.inl ⟨f, rfl⟩)
    · exact .inr (.inr ⟨_, rfl⟩)
    · rcases resumeOf_cases p .latchWaitLow s with ⟨-, -, e⟩ | e <;> rw [e]
      · exact .inr (.inr ⟨none, rfl⟩)
      · exact .inl (recordEdges_self s)
    · exact .inl rfl

/-- LATCH_READ writes its destination only. -/
theorem latchRead_eq (s : State) : latchRead s = { s with req := { s.req with x := (latchRead s).req.x } } :=
  deliver_eq _ s

end

/-- Settles O35: a latch operation does nothing, raises its fault, or makes its own writes and records their edges. -/
theorem latchFrame : Obligations.LatchFrame := by
  intro p i s t hi h
  obtain ⟨q, hx⟩ : ∃ q, execWith q i s = .next t := by
    rcases h with h | h
    · exact ⟨_, exec_eq_execWith i s ▸ h⟩
    · exact ⟨p, h⟩
  rcases execWith_latch_cases hi hx with rfl | ⟨f, rfl⟩ | ⟨op, rfl⟩
  · simp
  · simp [prefix_addFault]
  · simp only [List.mem_cons, List.not_mem_nil, or_false] at hi
    rcases hi with rfl | rfl | rfl | rfl | rfl | rfl
    · simp [effectOf]
    · simp [effectOf, latchDisconnect]
    · simp [effectOf, latchTimerStop]
    · simp [effectOf, latchDriveHigh]
    · simp [effectOf, latchArm]
    · have hvars (k : Nat) (hk : s.req.dst ≠ some k) : readVar (latchRead s).req.x k = readVar s.req.x k :=
        readVar_deliver_ne hk
      simp only [effectOf]
      rw [latchRead_eq]
      simpa using hvars

end Sys2Proof.Machine

namespace Sys2Proof.Machine

/-! ### What each latch operation does (42_latch_flicker.md R141 to R146) -/

section
variable {p : Params} {i : Instr} {s t : State}

/-- The flicker line is told by its own bits and its own timer. -/
theorem level_flicker_congr (hddr : t.pins.ddr.flicker = s.pins.ddr.flicker)
    (hport : t.pins.port.flicker = s.pins.port.flicker) (hft : t.ft = s.ft) :
    level t .flicker = level s .flicker := by
  simp [level_flicker, hddr, hport, hft]

/-- No latch operation moves the flicker line. -/
theorem level_flicker_latchEffect (hi : i ∈ latchOps) : level (effectOf p i s) .flicker = level s .flicker := by
  simp only [latchOps, List.mem_cons, List.not_mem_nil, or_false] at hi
  rcases hi with rfl | rfl | rfl | rfl | rfl | rfl
  iterate 5 exact level_flicker_congr rfl rfl rfl
  exact level_congr (deliver_pins _ _) (deliver_lt _ _) (deliver_ft _ _) _

/-- A latch operation records at most the edge that it makes on the latch line. -/
theorem edges_latchEffect (hi : i ∈ latchOps) :
    (recordEdges s (effectOf p i s)).hist.edges = s.hist.edges ++ edgeOn s (effectOf p i s) .latch := by
  obtain ⟨-, -, -, hhist, -⟩ := effectOf_frame p i s
  simp [hhist, edgeOn_of_eq (level_flicker_latchEffect hi).symm]

/-- LATCH_DISCONNECT hands the line to a port bit of 0. -/
theorem level_latchDisconnect (hddr : s.pins.ddr.latch = true) : level (latchDisconnect s) .latch = .low := by
  simp [level_latch, latchDisconnect, hddr]

/-- The level of the latch line does not depend on whether the counter runs. -/
theorem level_latchTimerStop (s : State) : level (latchTimerStop s) .latch = level s .latch := by
  simp [level_latch, latchTimerStop]

theorem recordEdges_latchTimerStop (s : State) : recordEdges s (latchTimerStop s) = latchTimerStop s :=
  recordEdges_of_level_eq (level_latchTimerStop s).symm (level_flicker_setLt s _).symm

/-- A connected line does not show the port bit (42_latch_flicker.md R140). -/
theorem level_latchDriveHigh_connected (hc : s.lt.connected = true) :
    level (latchDriveHigh s) .latch = level s .latch := by
  simp [level_latch, latchDriveHigh, hc]

/-- A disconnected line shows the port bit (42_latch_flicker.md R140). -/
theorem level_latchDriveHigh_disconnected (hc : s.lt.connected = false) (hddr : s.pins.ddr.latch = true) :
    level (latchDriveHigh s) .latch = .high := by
  simp [level_latch, latchDriveHigh, hc, hddr]

/-- The issue of LATCH_WAIT_LOW leaves it held, and writes nothing else. -/
theorem execWith_latchWaitLow_start (hidle : Idle s) (hr : s.pins.ready = true) :
    execWith p .latchWaitLow s = .next (holdAt .latchWaitLow s) := by
  rw [execWith_start hidle (precheck_latch (by simp) hr)]
  exact congrArg _ (recordEdges_of_same rfl rfl rfl)

/-- A held LATCH_WAIT_LOW passes from a low line. -/
theorem execWith_latchWaitLow_pass (h : HeldAt .latchWaitLow s) (hlow : level s .latch = .low) :
    execWith p .latchWaitLow s = .next (s.setOp none) := by
  have hawait : awaitHolds .latchWaitLow s = true := decide_eq_true hlow
  have hresume : resumeOf p .latchWaitLow s = s.setOp none := awaitThen_pass hawait
  rw [execWith_resume h, hresume]
  exact congrArg _ (recordEdges_of_same rfl rfl rfl)

/-- A held LATCH_WAIT_LOW stays held while the line is not low. -/
theorem execWith_latchWaitLow_still (h : HeldAt .latchWaitLow s) (hlow : level s .latch ≠ .low) :
    execWith p .latchWaitLow s = .next s := by
  have hawait : awaitHolds .latchWaitLow s = false := decide_eq_false hlow
  have hresume : resumeOf p .latchWaitLow s = s := awaitThen_still hawait
  rw [execWith_resume h, hresume, recordEdges_self]

end

/-- Settles O29: the issue holds the operation, which has no effect of its own, so passing is the end of the hold. -/
theorem latchWaitLowResult : Obligations.LatchWaitLowResult := by
  intro s held
  simp only [exec_eq_execWith]
  refine ⟨fun hidle hr => ⟨execWith_latchWaitLow_start hidle hr, fun hlow => ?pass⟩, execWith_latchWaitLow_pass,
    execWith_latchWaitLow_still⟩
  case pass =>
    have hheld : HeldAt .latchWaitLow held := ⟨hidle.1, rfl⟩
    have hlow' : level held .latch = .low := (level_congr rfl rfl rfl _).trans hlow
    rw [execWith_latchWaitLow_pass hheld hlow']
    exact congrArg _ (setOp_self hidle.2)

/-- Settles O30: the port bit 0 drives the line afterwards, and what is written stands there already the second time. -/
theorem latchDisconnectResult : Obligations.LatchDisconnectResult := by
  intro s hidle hr
  have hx := exec_latch (i := .latchDisconnect) hidle hr (by simp) rfl
  refine ⟨hx, fun t ht hddr => ?_⟩
  obtain rfl : recordEdges s (latchDisconnect s) = t := by simpa [hx, effectOf] using ht
  exact ⟨by rw [recordEdges_level, level_latchDisconnect hddr],
    exec_latch_of_fixed (i := .latchDisconnect) hidle hr (by simp) rfl rfl⟩

/-- Settles O31: no line depends on the run bit, and without it LT has no enabled step. -/
theorem latchTimerStopResult : Obligations.LatchTimerStopResult := by
  intro s hidle hr
  refine ⟨latchTimerStop s, ?_, rfl, exec_latch_of_fixed (i := .latchTimerStop) hidle hr (by simp) rfl rfl,
    fun p => agentStep_of_disabled nofun rfl⟩
  rw [exec_latch hidle hr (by simp) rfl]
  exact congrArg _ (recordEdges_latchTimerStop s)

/-- Settles O32: the port bit shows on the line exactly while the timer is disconnected from it. -/
theorem latchDriveHighResult : Obligations.LatchDriveHighResult := by
  intro s hidle hr
  have hx := exec_latch (i := .latchDriveHigh) hidle hr (by simp) rfl
  refine ⟨hx, fun t ht => ?_⟩
  obtain rfl : recordEdges s (latchDriveHigh s) = t := by simpa [hx, effectOf] using ht
  have hedges : (recordEdges s (latchDriveHigh s)).hist.edges = s.hist.edges ++ edgeOn s (latchDriveHigh s) .latch :=
    edges_latchEffect (p := Config.params) (i := .latchDriveHigh) (by simp)
  rw [hedges, recordEdges_level]
  refine ⟨fun hc => ?connected, fun hc hddr hlow => ?disconnected⟩
  case connected =>
    have hlevel := level_latchDriveHigh_connected hc
    exact ⟨hlevel, by rw [edgeOn_of_eq hlevel.symm, List.append_nil]⟩
  case disconnected =>
    have hlevel := level_latchDriveHigh_disconnected hc hddr
    exact ⟨hlevel, by simp [edgeOn, hlow, hlevel]⟩

/-- Settles O34: the line's level is the result delivered, and a delivery moves no line. -/
theorem latchReadResult : Obligations.LatchReadResult := by
  intro s hidle hr
  refine ⟨latchRead s, ?_, latchRead_eq s, deliver_discarded, fun n hn => ⟨?dst, fun k hk => ?other⟩⟩
  · rw [exec_latch hidle hr (by simp) rfl]
    exact congrArg _ (recordEdges_of_same (deliver_pins _ _) (deliver_lt _ _) (deliver_ft _ _))
  case dst =>
    rw [latchRead, readVar_deliver hn, if_pos rfl]
    simp [bitResult]
  case other => exact readVar_deliver_ne fun h => hk (Option.some.inj (h.symm.trans hn))

/-! ### The latch states (10_state.md R34) -/

section
variable {s : State}

theorem latchState_running : latchState s = .running ↔ s.lt.connected = true ∧ s.lt.run = true := by
  unfold latchState
  cases s.lt.connected <;> cases s.lt.run <;> cases s.pins.port.latch <;> simp

theorem latchState_disconnectedIdle :
    latchState s = .disconnectedIdle ↔ s.lt.connected = false ∧ s.lt.run = false ∧ s.pins.port.latch = false := by
  unfold latchState
  cases s.lt.connected <;> cases s.lt.run <;> cases s.pins.port.latch <;> simp

theorem latchState_latching : latchState s = .latching ↔ s.lt.connected = false ∧ s.pins.port.latch = true := by
  unfold latchState
  cases s.lt.connected <;> cases s.lt.run <;> cases s.pins.port.latch <;> simp

/-- Transient is every other state: connected but stopped, or still running on a line that software drives low. -/
theorem latchState_transient :
    latchState s = .transient ↔
      s.lt.connected = true ∧ s.lt.run = false ∨
        s.lt.connected = false ∧ s.lt.run = true ∧ s.pins.port.latch = false := by
  unfold latchState
  cases s.lt.connected <;> cases s.lt.run <;> cases s.pins.port.latch <;> simp

end

/-- Settles O38: each operation's writes are those that the next state's bits ask for. -/
theorem latchStatesThroughTrigger : Obligations.LatchStatesThroughTrigger := by
  intro s hidle hr
  have hx (i : Instr) (hi : i ∈ latchOps) (hw : waits i = false) := exec_latch hidle hr hi hw
  simp only [latchState_running, latchState_disconnectedIdle, latchState_latching, latchState_transient]
  refine ⟨?disconnectRunning, ?disconnectIdle, ?stopTransient, ?stopIdle, ?driveHigh, ?arm⟩
  case disconnectRunning =>
    exact fun ⟨_, hrun⟩ => ⟨_, hx .latchDisconnect (by simp) rfl, .inr ⟨rfl, hrun, rfl⟩, rfl, hrun, rfl⟩
  case disconnectIdle => exact fun ⟨_, hrun, _⟩ => ⟨_, hx .latchDisconnect (by simp) rfl, rfl, hrun, rfl⟩
  case stopTransient =>
    intro htransient hc
    obtain ⟨-, hport⟩ : s.lt.run = true ∧ s.pins.port.latch = false := by simpa [hc] using htransient
    exact ⟨_, hx .latchTimerStop (by simp) rfl, hc, rfl, hport⟩
  case stopIdle => exact fun ⟨hc, _, hport⟩ => ⟨_, hx .latchTimerStop (by simp) rfl, hc, rfl, hport⟩
  case driveHigh => exact fun ⟨hc, _, _⟩ => ⟨_, hx .latchDriveHigh (by simp) rfl, hc, rfl⟩
  case arm => exact fun _ => ⟨_, hx .latchArm (by simp) rfl, rfl, rfl⟩

end Sys2Proof.Machine

namespace Sys2Proof.Machine

/-! ### One tick (42_latch_flicker.md R160, R170) -/

section
variable {p : Params} {s : State} {t : Timer}

/-- Off the compare value a tick only counts. -/
theorem latchTick_count (h : t.cnt ≠ t.cmp) : latchTick p t = { t with cnt := (t.cnt + 1) % 2 ^ p.ltWidth } := by
  simp [latchTick, h]

/-- The output after a compare event: acted on while connected (42_latch_flicker.md R161, R163). -/
theorem latchTick_compare_oc (h : t.cnt = t.cmp) :
    (latchTick p t).oc = if t.connected then latchAct p.latchAction t.oc else t.oc := by
  simp [latchTick, h]

/-- In CTC mode a compare event clears the counter (42_latch_flicker.md R162). -/
theorem latchTick_cnt_ctc (hm : p.latchMode = .ctc) (h : t.cnt = t.cmp) : (latchTick p t).cnt = 0 := by
  simp [latchTick, h, hm]

/-- In NORMAL mode every tick counts (42_latch_flicker.md R162). -/
theorem latchTick_cnt_normal (hm : p.latchMode = .normal) : (latchTick p t).cnt = (t.cnt + 1) % 2 ^ p.ltWidth := by
  by_cases h : t.cnt = t.cmp <;> simp [latchTick, h, hm]

/-- A disconnected output is held (42_latch_flicker.md R163). -/
theorem latchTick_oc_disconnected (h : t.connected = false) : (latchTick p t).oc = t.oc := by
  by_cases hc : t.cnt = t.cmp
  · simp [latchTick_compare_oc hc, h]
  · rw [latchTick_count hc]

theorem latchTick_connected : (latchTick p t).connected = t.connected := by rw [latchTick_frame]

/-- The latch line does not depend on the count. -/
@[simp] theorem level_latch_setCnt (s : State) (cnt : Nat) :
    level (s.setLt { s.lt with cnt := cnt }) .latch = level s .latch := by simp [level_latch]

/-- LT's step while the counter runs. -/
theorem agentStep_lt (h : s.lt.run = true) :
    agentStep p .lt s = recordEdges s (s.setLt (latchTick p s.lt)) := by
  simp [agentStep, agentEffect, ltStep, h]

/-- A tick that leaves the output records nothing: the line depends on the timer by its output only. -/
theorem agentStep_lt_of_oc (h : s.lt.run = true) (hoc : (latchTick p s.lt).oc = s.lt.oc) :
    agentStep p .lt s = s.setLt (latchTick p s.lt) := by
  have hlevel : level (s.setLt (latchTick p s.lt)) .latch = level s .latch := by
    simp [level_latch, latchTick_connected, hoc]
  rw [agentStep_lt h, recordEdges_of_level_eq hlevel.symm (level_flicker_setLt s _).symm]

/-- FT's step while the counter runs. -/
theorem agentStep_ft (h : s.ft.run = true) :
    agentStep p .ft s = recordEdges s (s.setFt (flickerTick p s.ft)) := by
  simp [agentStep, agentEffect, ftStep, h]

end

/-- Settles O36: a tick off the compare value counts, a compare event acts by action and mode, and while disconnected it keeps the
output, so no line moves. -/
theorem latchTickRule : Obligations.LatchTickRule := by
  refine ⟨fun s => Iff.rfl, fun p s hrun => ?tick, fun p s hrun hdis hc => ?disconnected⟩
  case tick =>
    refine ⟨(latchTick p s.lt).cnt, (latchTick p s.lt).oc, ?_, fun hne => ?count, fun heq => ?compare⟩
    · rw [agentStep_lt hrun]
      exact congrArg (fun v => recordEdges s (s.setLt v)) (latchTick_frame p s.lt)
    case count => simp [latchTick_count hne]
    case compare =>
      refine ⟨latchTick_oc_disconnected, fun hc ha => ?_, fun hc ha => ?_, fun hm => latchTick_cnt_ctc hm heq,
        latchTick_cnt_normal⟩
      · simp [latchTick_compare_oc heq, hc, ha, latchAct]
      · simp [latchTick_compare_oc heq, hc, ha, latchAct]
  case disconnected =>
    have hoc : (latchTick p s.lt).oc = s.lt.oc := latchTick_oc_disconnected hdis
    have hstep : agentStep p .lt s = s.setLt { s.lt with cnt := (latchTick p s.lt).cnt } := by
      rw [agentStep_lt_of_oc hrun hoc, latchTick_frame, hoc]
    exact ⟨_, hstep, by rw [hstep, level_latch_setCnt]⟩

/-- Settles O41: FT's tick is the rule's, and of what a step may write to the flicker timer nothing clears its run bit. -/
theorem flickerTickRule : Obligations.FlickerTickRule := by
  refine ⟨fun s => Iff.rfl, fun p s hrun => ?tick, fun p s t hrun hx => ?forever⟩
  case tick =>
    refine ⟨(flickerTick p s.ft).cnt, (flickerTick p s.ft).oc, ?_, fun hne => ?_, fun heq => ?_⟩
    · rw [agentStep_ft hrun]
      exact congrArg (fun v => recordEdges s (s.setFt v)) (flickerTick_frame p s.ft)
    · simp [flickerTick, hne]
    · simp [flickerTick, heq]
  case forever =>
    have hwrite : FlickerTimerWrite p s.ft t.ft := (TimerWrites.stepWith hx).ft
    generalize t.ft = b at hwrite ⊢
    cases hwrite with
    | keep => exact hrun
    | start => rfl
    | tick => rw [flickerTick_run, hrun]

/-! ### Many ticks (42_latch_flicker.md R164, R171) -/

section
variable {p : Params} {t : Timer} {n : Nat}

/-- Before the first compare event the ticks only count. -/
theorem latchTicks_before_compare (hw : t.cmp < 2 ^ p.ltWidth) (h : t.cnt + n ≤ t.cmp) :
    latchTicks p n t = { t with cnt := t.cnt + n } := by
  induction n with
  | zero => rfl
  | succ n ih =>
    have hne : t.cnt + n ≠ t.cmp := by omega
    have hwrap : (t.cnt + n + 1) % 2 ^ p.ltWidth = t.cnt + n + 1 := Nat.mod_eq_of_lt (by omega)
    rw [latchTicks, ih (by omega), latchTick_count hne, hwrap]
    rfl

theorem latchTicks_add (m n : Nat) : latchTicks p (m + n) t = latchTicks p n (latchTicks p m t) := by
  induction n with
  | zero => rfl
  | succ n ih => rw [← Nat.add_assoc, latchTicks, ih, latchTicks]

/-- No tick connects the output, writes the compare value or stops the counter. -/
theorem latchTicks_frame (p : Params) (n : Nat) (t : Timer) :
    (latchTicks p n t).connected = t.connected ∧ (latchTicks p n t).cmp = t.cmp ∧
      (latchTicks p n t).run = t.run := by
  induction n with
  | zero => exact ⟨rfl, rfl, rfl⟩
  | succ n ih =>
    obtain ⟨hconn, hcmp, hrun⟩ := ih
    exact ⟨latchTick_connected.trans hconn, latchTick_cmp.trans hcmp, latchTick_run.trans hrun⟩

/-- Under CLEAR an output of 0 stays 0. -/
theorem latchTicks_clear (ha : p.latchAction = .clear) (h : t.oc = false) : (latchTicks p n t).oc = false := by
  induction n with
  | zero => exact h
  | succ n ih =>
    rw [latchTicks]
    by_cases hc : (latchTicks p n t).cnt = (latchTicks p n t).cmp
    · simp [latchTick_compare_oc hc, ha, latchAct, ih]
    · rw [latchTick_count hc, ih]

/-- The count after the last one of a round of `c + 1` is 0, in the next round. -/
theorem succ_div_mod_of_last {c k : Nat} (h : k % (c + 1) = c) :
    (k + 1) / (c + 1) = k / (c + 1) + 1 ∧ (k + 1) % (c + 1) = 0 := by
  have hk := Nat.div_add_mod k (c + 1)
  rw [Nat.div_mod_unique (by omega), Nat.mul_add]
  omega

/-- Any other count of the round goes up by one, in the same round. -/
theorem succ_div_mod_of_not_last {c k : Nat} (h : k % (c + 1) ≠ c) :
    (k + 1) / (c + 1) = k / (c + 1) ∧ (k + 1) % (c + 1) = k % (c + 1) + 1 := by
  have hk := Nat.div_add_mod k (c + 1)
  have hlt : k % (c + 1) < c + 1 := Nat.mod_lt k (by omega)
  rw [Nat.div_mod_unique (by omega)]
  omega

/-- The parity of the round changes after its last count. -/
theorem odd_succ_div (c k : Nat) :
    decide ((k + 1) / (c + 1) % 2 = 1) = (decide (k / (c + 1) % 2 = 1) ^^ decide (k % (c + 1) = c)) := by
  by_cases h : k % (c + 1) = c
  · rw [(succ_div_mod_of_last h).1, decide_eq_true h, Bool.xor_true, ← decide_not, decide_eq_decide]
    omega
  · rw [(succ_div_mod_of_not_last h).1, decide_eq_false h, Bool.xor_false]

/-- A counter of `c + 1` values that started one past `d` is at `d` on the last count of each of its rounds. -/
theorem succ_add_mod_eq_iff {c d k : Nat} (h : d ≤ c) : (d + 1 + k) % (c + 1) = d ↔ k % (c + 1) = c := by
  have hlt : k % (c + 1) < c + 1 := Nat.mod_lt k (by omega)
  rw [← Nat.add_mod_mod]
  by_cases hwrap : d + 1 + k % (c + 1) < c + 1
  · rw [Nat.mod_eq_of_lt hwrap]
    omega
  · rw [Nat.mod_eq_sub_mod (by omega), Nat.mod_eq_of_lt (by omega)]
    omega

/-- Under TOGGLE a tick inverts a connected output exactly at a compare event. -/
theorem latchTick_oc_toggle (ha : p.latchAction = .toggle) (hc : t.connected = true) :
    (latchTick p t).oc = (t.oc ^^ decide (t.cnt = t.cmp)) := by
  by_cases h : t.cnt = t.cmp
  · simp [latchTick_compare_oc h, h, hc, ha, latchAct]
  · simp [latchTick_count h, h]

/-- Under TOGGLE with CTC the counter goes round its `cmp + 1` values, and each round inverts the output. -/
theorem latchTicks_toggle_ctc (ha : p.latchAction = .toggle) (hm : p.latchMode = .ctc) (hw : t.cmp < 2 ^ p.ltWidth)
    (h0 : t.cnt = 0) (hc : t.connected = true) (n : Nat) :
    (latchTicks p n t).cnt = n % (t.cmp + 1) ∧
      (latchTicks p n t).oc = (t.oc ^^ decide (n / (t.cmp + 1) % 2 = 1)) := by
  induction n with
  | zero => simp [latchTicks, h0]
  | succ n ih =>
    obtain ⟨hcnt, hoc⟩ := ih
    obtain ⟨hconn, hcmp, -⟩ := latchTicks_frame p n t
    rw [latchTicks]
    constructor
    · by_cases hlast : n % (t.cmp + 1) = t.cmp
      · rw [(succ_div_mod_of_last hlast).2, latchTick_cnt_ctc hm (by rw [hcnt, hcmp, hlast])]
      · have hlt : n % (t.cmp + 1) < t.cmp + 1 := Nat.mod_lt n (by omega)
        have hne : (latchTicks p n t).cnt ≠ (latchTicks p n t).cmp := by rwa [hcnt, hcmp]
        rw [(succ_div_mod_of_not_last hlast).2, latchTick_count hne, hcnt]
        exact Nat.mod_eq_of_lt (by omega)
    · rw [latchTick_oc_toggle ha (hconn.trans hc), hcnt, hcmp, hoc, odd_succ_div, Bool.xor_assoc]

/-- Under TOGGLE with NORMAL, from just after a compare event, the output is inverted every `2 ^ LT_WIDTH` ticks. -/
theorem latchTicks_toggle_normal (ha : p.latchAction = .toggle) (hm : p.latchMode = .normal)
    (hw : t.cmp < 2 ^ p.ltWidth) (h0 : t.cnt = (t.cmp + 1) % 2 ^ p.ltWidth) (hc : t.connected = true) (n : Nat) :
    (latchTicks p n t).cnt = (t.cmp + 1 + n) % 2 ^ p.ltWidth ∧
      (latchTicks p n t).oc = (t.oc ^^ decide (n / 2 ^ p.ltWidth % 2 = 1)) := by
  induction n with
  | zero => simp [latchTicks, h0]
  | succ n ih =>
    obtain ⟨hcnt, hoc⟩ := ih
    obtain ⟨hconn, hcmp, -⟩ := latchTicks_frame p n t
    rw [latchTicks]
    constructor
    · rw [latchTick_cnt_normal hm, hcnt, Nat.mod_add_mod, Nat.add_assoc]
    · obtain ⟨c, hwidth⟩ := Nat.exists_eq_add_one.mpr (Nat.two_pow_pos p.ltWidth)
      rw [latchTick_oc_toggle ha (hconn.trans hc), hcnt, hcmp, hoc, hwidth, odd_succ_div, Bool.xor_assoc,
        decide_eq_decide.mpr (succ_add_mod_eq_iff (by omega))]

/-- The first compare event of a high connected output, under either action (42_latch_flicker.md R161). -/
theorem latchTicks_first_compare (hw : t.cmp < 2 ^ p.ltWidth) (h0 : t.cnt = 0) (hc : t.connected = true)
    (hoc : t.oc = true) : (latchTicks p (t.cmp + 1) t).oc = false := by
  have hbefore : latchTicks p t.cmp t = { t with cnt := t.cmp } := by
    rw [latchTicks_before_compare hw (by omega), h0, Nat.zero_add]
  rw [latchTicks, hbefore, latchTick_compare_oc rfl, if_pos hc, hoc]
  cases p.latchAction <;> rfl

/-- In NORMAL mode the counter goes on past the compare value. -/
theorem latchTicks_first_compare_cnt (hm : p.latchMode = .normal) (hw : t.cmp < 2 ^ p.ltWidth) (h0 : t.cnt = 0) :
    (latchTicks p (t.cmp + 1) t).cnt = (t.cmp + 1) % 2 ^ p.ltWidth := by
  rw [latchTicks, latchTick_cnt_normal hm, latchTicks_before_compare hw (by omega), h0, Nat.zero_add]

/-- The parameters for which a latch timer ticks as the flicker timer does for `p` (42_latch_flicker.md R160, R170). -/
def flickerAsLatch (p : Params) : Params :=
  { p with latchMode := .ctc, latchAction := .toggle, ltWidth := p.ftWidth }

theorem flickerTick_eq_latchTick (p : Params) (t : Timer) : flickerTick p t = latchTick (flickerAsLatch p) t := rfl

theorem flickerTicks_eq_latchTicks (p : Params) (n : Nat) (t : Timer) :
    flickerTicks p n t = latchTicks (flickerAsLatch p) n t := by
  induction n with
  | zero => rfl
  | succ n ih => rw [flickerTicks, latchTicks, ih, flickerTick_eq_latchTick]

end

/-- Settles O37: up to the first compare event the ticks only count; from there on each action and mode has its own lemma. -/
theorem latchOutputAfterArm : Obligations.LatchOutputAfterArm := by
  intro p t n hp h0 hcmp hoc hc
  have hw : t.cmp < 2 ^ p.ltWidth := hcmp ▸ hp.latchCmp
  rw [← hcmp]
  have hfirst := latchTicks_first_compare hw h0 hc hoc
  have hlater (hn : t.cmp < n) : latchTicks p n t = latchTicks p (n - (t.cmp + 1)) (latchTicks p (t.cmp + 1) t) := by
    rw [← latchTicks_add]
    congr 1
    omega
  refine ⟨fun hn => ?before, fun hn => hn ▸ hfirst, fun ha hn => ?clear, fun ha hm => ?ctc, fun ha hm hn => ?normal⟩
  case before =>
    rw [latchTicks_before_compare hw (by omega)]
    exact ⟨hoc, by simp [h0]⟩
  case clear =>
    rw [hlater hn]
    exact latchTicks_clear ha hfirst
  case ctc =>
    rw [(latchTicks_toggle_ctc ha hm hw h0 hc n).2, hoc, Bool.true_xor, ← decide_not, decide_eq_decide]
    omega
  case normal =>
    obtain ⟨hconn, hcmp', -⟩ := latchTicks_frame p (t.cmp + 1) t
    have hcnt : (latchTicks p (t.cmp + 1) t).cnt = _ := latchTicks_first_compare_cnt hm hw h0
    obtain ⟨-, hrounds⟩ := latchTicks_toggle_normal ha hm (by rwa [hcmp']) (by rw [hcnt, hcmp']) (hconn.trans hc)
      (n - (t.cmp + 1))
    rw [hlater hn, hrounds, hfirst, Bool.false_xor]

/-- Settles O42: the flicker timer is a latch timer under TOGGLE with CTC, which starts from an output of 0. -/
theorem flickerOutputAfterTicks : Obligations.FlickerOutputAfterTicks := by
  intro p t n hp h0 hcmp hoc hc
  have hw : t.cmp < 2 ^ p.ftWidth := hcmp ▸ hp.flickerCmp
  rw [flickerTicks_eq_latchTicks, ← hcmp]
  obtain ⟨hcnt, hout⟩ := latchTicks_toggle_ctc (p := flickerAsLatch p) rfl rfl hw h0 hc n
  exact ⟨by rw [hout, hoc, Bool.false_xor], hcnt⟩

end Sys2Proof.Machine

namespace Sys2Proof.Machine

/-! ### The flicker line after FLICKER_START (42_latch_flicker.md R172) -/

/-- The flicker timer is as it was, and so are the direction and the port bit of its line. -/
structure FlickerKept (s t : State) : Prop where
  ft   : t.ft = s.ft
  ddr  : t.pins.ddr.flicker = s.pins.ddr.flicker
  port : t.pins.port.flicker = s.pins.port.flicker

section
variable {p : Params} {i : Instr} {m : Move} {s t : State}

theorem FlickerKept.of_same (hp : t.pins = s.pins) (hf : t.ft = s.ft) : FlickerKept s t := ⟨hf, by rw [hp], by rw [hp]⟩

@[simp] theorem uartTake_ft (s : State) : (uartTake s).ft = s.ft := by
  unfold uartTake
  split
  · exact deliver_ft _ _
  · rfl

/-- Of the operations' effects only FLICKER_START's touches the flicker timer, and only PIN_INIT's its line, where it writes what
stands there already once setup is done. -/
theorem FlickerKept.effectOf (hsetup : SetupShape s) (hr : s.pins.ready = true) (hi : i ≠ .flickerStart) :
    FlickerKept s (effectOf p i s) := by
  cases i with
  | flickerStart => exact absurd rfl hi
  | pinInit => exact .of_same (congrArg State.pins (hsetup.pinInit_eq hr)) rfl
  | spiXfer _ | latchRead => exact .of_same (deliver_pins _ _) (deliver_ft _ _)
  | uartRecv => exact .of_same (uartTake_pins s) (uartTake_ft s)
  | uartInit | spiInit | latchWaitLow | latchTimerStop | latchArm | uartSend _ => exact .of_same rfl rfl
  | latchDisconnect | latchDriveHigh => exact ⟨rfl, rfl, rfl⟩

/-- FLICKER_START fails its check while the flicker timer runs (40_init.md R104). -/
theorem ne_flickerStart_of_precheck (hrun : s.ft.run = true) (hc : precheck i s = none) : i ≠ .flickerStart := by
  rintro rfl
  obtain ⟨-, -, -, hstopped, -⟩ := (precheck_eq_none _ s).mp hc
  simp [hstopped rfl] at hrun

theorem FlickerKept.execWith (hsetup : SetupShape s) (hrun : s.ft.run = true) (h : execWith p i s = .next t) :
    FlickerKept s t := by
  have hr : s.pins.ready = true := hsetup.ready_of_on (.inr (.inr (.inr hrun)))
  rcases execWith_cases h with ⟨-, rfl⟩ | ⟨-, f, -, rfl⟩ | ⟨-, hc, rfl⟩ | ⟨-, rfl⟩ | ⟨-, -, rfl⟩
  · exact .of_same rfl rfl
  · exact .of_same rfl rfl
  · cases hw : waits i with
    | false =>
      have hkept := FlickerKept.effectOf (p := p) hsetup hr (ne_flickerStart_of_precheck hrun hc)
      rw [startOf_of_not_waits hw]
      exact ⟨hkept.ft, hkept.ddr, hkept.port⟩
    | true => rcases startOf_of_waits (p := p) (s := s) hw with e | ⟨b, -, e⟩ <;> (rw [e]; exact .of_same rfl rfl)
  · rcases resumeOf_cases p i s with ⟨hw, -, e⟩ | e <;> rw [e]
    · have hi : i ≠ .flickerStart := by
        rintro rfl
        cases hw
      have hkept := FlickerKept.effectOf (p := p) hsetup hr hi
      exact ⟨hkept.ft, hkept.ddr, hkept.port⟩
    · exact .of_same rfl rfl
  · exact .of_same rfl rfl

theorem FlickerKept.takeMove (hsetup : SetupShape s) (hrun : s.ft.run = true) (hm : m ≠ .ft)
    (h : takeMove p m s = .next t) : FlickerKept s t := by
  rcases takeMove_cases h with ⟨-, h⟩ | ⟨-, rfl⟩
  · rcases reqStep_cases h with rfl | ⟨-, i, -, -, h⟩ | ⟨-, r, rest, i, -, -, h⟩ | ⟨-, r, rest, e, -, -, rfl⟩
    · exact .of_same rfl rfl
    · exact .execWith hsetup hrun h
    · have hsetup' : SetupShape (takeLine r rest s) := hsetup.congr rfl
      obtain ⟨hft, hddr, hport⟩ := FlickerKept.execWith hsetup' hrun h
      exact ⟨hft, hddr, hport⟩
    · exact .of_same rfl rfl
  · obtain ⟨-, hpins, -, -, -, -, hft, -⟩ := agentFrame p m s
    exact .of_same hpins (hft hm)

end

/-- Settles O43: every move but FT's keeps the flicker timer and its line's bits, and these make the line's level. -/
theorem flickerIndependentOfAllElse : Obligations.FlickerIndependentOfAllElse := by
  intro p m s t hsetup hrun hm h
  obtain ⟨hft, hddr, hport⟩ := FlickerKept.takeMove hsetup hrun hm h
  exact ⟨hft, hport, level_flicker_congr hddr hport hft⟩

/-! ### LATCH_TRIGGER (42_latch_flicker.md R147) -/

/-- Where a trigger stands between two of its operations: the requester is idle with the words `ws` to come, and the edges and the
faults so far are `es` and `fs`. -/
structure InTrigger (es : List Edge) (fs : List FaultRecord) (ws : List Word) (u : State) : Prop where
  idle   : Idle u
  ready  : u.pins.ready = true
  ddr    : u.pins.ddr.latch = true
  lines  : u.req.queue.map Request.word = ws
  edges  : u.hist.edges = es
  faults : u.faults = fs

section
variable {p : Params} {i : Instr} {u : State} {es : List Edge} {fs : List FaultRecord} {w : Word} {ws : List Word}
  {n : Nat}

theorem InTrigger.setLt (h : InTrigger es fs ws u) (v : Timer) : InTrigger es fs ws (u.setLt v) := { h with }

/-- Ticks that make no compare event on a connected output move the timer only. -/
theorem runMoves_ticks (hrun : u.lt.run = true)
    (h : u.lt.connected = false ∨ u.lt.cmp < 2 ^ p.ltWidth ∧ u.lt.cnt + n ≤ u.lt.cmp) :
    runMoves p (List.replicate n .lt) u = .next (u.setLt (latchTicks p n u.lt)) := by
  induction n with
  | zero => rfl
  | succ n ih =>
    have hruns := ih (h.imp_right fun ⟨hw, hle⟩ => ⟨hw, by omega⟩)
    obtain ⟨hconn, -, hrun'⟩ := latchTicks_frame p n u.lt
    have hoc : (latchTick p (latchTicks p n u.lt)).oc = (latchTicks p n u.lt).oc := by
      rcases h with hdis | ⟨hw, hle⟩
      · exact latchTick_oc_disconnected (hconn.trans hdis)
      · rw [latchTicks_before_compare hw (by omega), latchTick_count]
        show u.lt.cnt + n ≠ u.lt.cmp
        omega
    have htick := agentStep_lt_of_oc (p := p) (s := u.setLt (latchTicks p n u.lt)) (hrun'.trans hrun) hoc
    rw [List.replicate_succ', runMoves_append hruns]
    exact congrArg Host.Outcome.next htick

/-- Without the run bit a tick is no step (42_latch_flicker.md R160). -/
theorem runMoves_ticks_stopped (hrun : u.lt.run = false) : runMoves p (List.replicate n .lt) u = .next u := by
  induction n with
  | zero => rfl
  | succ n ih =>
    have htick : takeMove p .lt u = .next u := congrArg Host.Outcome.next (agentStep_of_disabled nofun hrun)
    rw [List.replicate_succ, runMoves_cons htick, ih]

/-- Before the first compare event the ticks move the counter only, by their number if it runs. -/
theorem runMoves_ticks_before_compare (hw : u.lt.cmp < 2 ^ p.ltWidth)
    (h : u.lt.run = true → u.lt.cnt + n ≤ u.lt.cmp) :
    runMoves p (List.replicate n .lt) u =
      .next (u.setLt { u.lt with cnt := if u.lt.run then u.lt.cnt + n else u.lt.cnt }) := by
  cases hrun : u.lt.run with
  | false =>
    rw [runMoves_ticks_stopped hrun]
    rfl
  | true =>
    rw [runMoves_ticks hrun (.inr ⟨hw, h hrun⟩), latchTicks_before_compare hw (h hrun)]
    rfl

/-- While the line is disconnected any ticks move the timer only, and do not connect it. -/
theorem runMoves_ticks_disconnected (p : Params) (n : Nat) (h : u.lt.connected = false) :
    ∃ v : Timer, runMoves p (List.replicate n .lt) u = .next (u.setLt v) ∧ v.connected = false := by
  cases hrun : u.lt.run with
  | false => exact ⟨u.lt, runMoves_ticks_stopped hrun, h⟩
  | true => exact ⟨_, runMoves_ticks hrun (.inl h), (latchTicks_frame p n u.lt).1.trans h⟩

/-- The four operations of a trigger that do not wait (30_encoding.md R88). -/
abbrev triggerOps : List Instr := [.latchDisconnect, .latchTimerStop, .latchDriveHigh, .latchArm]

/-- An operation of a trigger, taken up from the program. -/
theorem InTrigger.op (h : InTrigger es fs (w :: ws) u) (hd : decode w = .ok i) (hi : i ∈ triggerOps) :
    ∃ v, takeMove p .req u = .next v ∧ InTrigger (es ++ edgeOn u (effectOf p i u) .latch) fs ws v ∧
      v.pins = (effectOf p i u).pins ∧ v.lt = (effectOf p i u).lt := by
  obtain ⟨r, rest, hq, rfl, rfl⟩ := List.map_eq_cons_iff.mp h.lines
  have hlatch : i ∈ latchOps ∧ waits i = false ∧ effectOf p i (takeLine r rest u) = takeLine r rest (effectOf p i u) := by
    simp only [triggerOps, List.mem_cons, List.not_mem_nil, or_false] at hi
    rcases hi with rfl | rfl | rfl | rfl <;> exact ⟨by simp, rfl, rfl⟩
  obtain ⟨hi, hw, hcomm⟩ := hlatch
  have hx : execWith p i (takeLine r rest u) = .next (recordEdges u (takeLine r rest (effectOf p i u))) := by
    rw [execWith_latch (idle_takeLine h.idle) h.ready hi hw, hcomm, recordEdges_congr (takeLine_level r rest u)]
  obtain ⟨-, -, -, -, hpins, -⟩ := latchFrame p i _ _ hi (.inr hx)
  obtain ⟨hfaults, -, -, -, -, -, hop⟩ := effectOf_frame p i u
  refine ⟨_, (reqStep_line h.idle hq hd).trans hx, ?_, rfl, rfl⟩
  constructor
  case idle => exact ⟨(halted_congr hfaults).trans h.idle.1, hop.trans h.idle.2⟩
  case ready => rw [hpins]; exact h.ready
  case ddr => rw [hpins]; exact h.ddr
  case lines => rfl
  case edges => exact (edges_latchEffect (p := p) (s := u) hi).trans (by rw [h.edges])
  case faults => exact hfaults.trans h.faults

/-- An operation of a trigger that leaves the line disconnected, and any ticks after it. -/
theorem InTrigger.op_ticks (h : InTrigger es fs (w :: ws) u) (n : Nat) (hd : decode w = .ok i) (hi : i ∈ triggerOps)
    (hdis : (effectOf p i u).lt.connected = false) :
    ∃ v, runMoves p (.req :: List.replicate n .lt) u = .next v ∧
      InTrigger (es ++ edgeOn u (effectOf p i u) .latch) fs ws v ∧
      v.pins = (effectOf p i u).pins ∧ v.lt.connected = false := by
  obtain ⟨v, hop, hv, hpins, hlt⟩ := h.op hd hi
  obtain ⟨lt, hticks, hdis'⟩ := runMoves_ticks_disconnected (u := v) p n (hlt ▸ hdis)
  exact ⟨_, (runMoves_cons hop).trans hticks, hv.setLt lt, hpins, hdis'⟩

/-- The issue of LATCH_WAIT_LOW from the program, and ticks after it that make no compare event. -/
theorem runMoves_waitLow_issue {r : Request} {rest : List Request} (hidle : Idle u) (hr : u.pins.ready = true)
    (hq : u.req.queue = r :: rest) (hd : decode r.word = .ok .latchWaitLow) (hw : u.lt.cmp < 2 ^ p.ltWidth)
    (h : u.lt.run = true → u.lt.cnt + n ≤ u.lt.cmp) :
    runMoves p (.req :: List.replicate n .lt) u =
      .next ((holdAt .latchWaitLow (takeLine r rest u)).setLt
        { u.lt with cnt := if u.lt.run then u.lt.cnt + n else u.lt.cnt }) := by
  have hissue : takeMove p .req u = .next (holdAt .latchWaitLow (takeLine r rest u)) :=
    (reqStep_line hidle hq hd).trans (execWith_latchWaitLow_start (idle_takeLine hidle) hr)
  exact (runMoves_cons hissue).trans (runMoves_ticks_before_compare hw h)

/-- A held LATCH_WAIT_LOW passes from a low line, and ticks after it that make no compare event. -/
theorem runMoves_waitLow_pass (hheld : HeldAt .latchWaitLow u) (hlow : level u .latch = .low)
    (hw : u.lt.cmp < 2 ^ p.ltWidth) (h : u.lt.run = true → u.lt.cnt + n ≤ u.lt.cmp) :
    runMoves p (.req :: List.replicate n .lt) u =
      .next ((u.setOp none).setLt { u.lt with cnt := if u.lt.run then u.lt.cnt + n else u.lt.cnt }) := by
  have hpass : takeMove p .req u = .next (u.setOp none) :=
    (reqStep_held hheld).trans (execWith_latchWaitLow_pass hheld hlow)
  exact (runMoves_cons hpass).trans (runMoves_ticks_before_compare hw h)

/-- Step (1): LATCH_WAIT_LOW held and passed from a low line, which ticks without a compare event leave low. -/
theorem InTrigger.waitLow (h : InTrigger es fs (0x2000 :: ws) u) (hlow : level u .latch = .low) (m n : Nat)
    (hw : u.lt.cmp < 2 ^ p.ltWidth) (hquiet : u.lt.run = true → u.lt.cnt + m + n ≤ u.lt.cmp) :
    ∃ v, runMoves p (.req :: List.replicate m .lt ++ .req :: List.replicate n .lt) u = .next v ∧
      InTrigger es fs ws v ∧ level v .latch = .low := by
  obtain ⟨r, rest, hq, hr, rfl⟩ := List.map_eq_cons_iff.mp h.lines
  have hissue := runMoves_waitLow_issue (n := m) h.idle h.ready hq (hr ▸ rfl) hw
    fun hrun => Nat.le_of_add_right_le (hquiet hrun)
  generalize hu' : State.setLt _ _ = u' at hissue
  have hheld : HeldAt .latchWaitLow u' := hu' ▸ ⟨h.idle.1, rfl⟩
  have hlt : u'.lt = { u.lt with cnt := if u.lt.run then u.lt.cnt + m else u.lt.cnt } := hu' ▸ rfl
  have hlow' : level u' .latch = .low := by
    rw [← hu', ← hlow]
    simp [level_latch]
  have hquiet' : u'.lt.run = true → u'.lt.cnt + n ≤ u'.lt.cmp := by
    rw [hlt]
    intro (hrun : u.lt.run = true)
    simpa [hrun] using hquiet hrun
  have hpass := runMoves_waitLow_pass (n := n) hheld hlow' (by rw [hlt]; exact hw) hquiet'
  refine ⟨_, (runMoves_append hissue).trans hpass, ?_, ?_⟩
  · subst hu'
    exact { h with idle := ⟨h.idle.1, rfl⟩, lines := rfl }
  · rw [← hlow']
    simp [level_latch]

/-- Step (2) leaves a low line low, disconnected with a port bit of 0. -/
theorem InTrigger.disconnect (h : InTrigger es fs (0x2100 :: ws) u) (hlow : level u .latch = .low) (n : Nat) :
    ∃ v, runMoves p (.req :: List.replicate n .lt) u = .next v ∧ InTrigger es fs ws v ∧
      v.lt.connected = false ∧ v.pins.port.latch = false := by
  obtain ⟨v, hruns, hv, hpins, hdis⟩ := h.op_ticks (p := p) n (i := .latchDisconnect) rfl (by simp) rfl
  have hedge : edgeOn u (effectOf p .latchDisconnect u) .latch = [] :=
    edgeOn_of_eq (hlow.trans (level_latchDisconnect h.ddr).symm)
  rw [hedge, List.append_nil] at hv
  exact ⟨v, hruns, hv, hdis, by rw [hpins]; rfl⟩

/-- Step (3) leaves a disconnected line as it is. -/
theorem InTrigger.stop (h : InTrigger es fs (0x2200 :: ws) u) (hdis : u.lt.connected = false)
    (hport : u.pins.port.latch = false) (n : Nat) :
    ∃ v, runMoves p (.req :: List.replicate n .lt) u = .next v ∧ InTrigger es fs ws v ∧
      v.lt.connected = false ∧ v.pins.port.latch = false := by
  obtain ⟨v, hruns, hv, hpins, hdis'⟩ := h.op_ticks (p := p) n (i := .latchTimerStop) rfl (by simp) hdis
  have hedge : edgeOn u (effectOf p .latchTimerStop u) .latch = [] := edgeOn_of_eq (level_latchTimerStop u).symm
  rw [hedge, List.append_nil] at hv
  exact ⟨v, hruns, hv, hdis', by rw [hpins]; exact hport⟩

/-- Step (4) takes a low disconnected line up, which is the pulse's first edge. -/
theorem InTrigger.driveHigh (h : InTrigger es fs (0x2300 :: ws) u) (hdis : u.lt.connected = false)
    (hport : u.pins.port.latch = false) (n : Nat) :
    ∃ v, runMoves p (.req :: List.replicate n .lt) u = .next v ∧
      InTrigger (es ++ [{ line := .latch, level := .high }]) fs ws v ∧
      v.lt.connected = false ∧ v.pins.port.latch = true := by
  obtain ⟨v, hruns, hv, hpins, hdis'⟩ := h.op_ticks (p := p) n (i := .latchDriveHigh) rfl (by simp) hdis
  have hlow : level u .latch = .low := by simp [level_latch, h.ddr, hdis, hport]
  have hhigh : level (effectOf p .latchDriveHigh u) .latch = .high := level_latchDriveHigh_disconnected hdis h.ddr
  have hedge : edgeOn u (effectOf p .latchDriveHigh u) .latch = [{ line := .latch, level := .high }] := by
    simp [edgeOn, hlow, hhigh]
  rw [hedge] at hv
  exact ⟨v, hruns, hv, hdis', by rw [hpins]; rfl⟩

/-- The compare event that takes a high connected line down records its edge (42_latch_flicker.md R164). -/
theorem InTrigger.compareEvent (h : InTrigger es fs ws u) (hrun : u.lt.run = true) (hc : u.lt.connected = true)
    (hoc : u.lt.oc = true) (hfall : (latchTick p u.lt).oc = false) :
    InTrigger (es ++ [{ line := .latch, level := .low }]) fs ws (agentStep p .lt u) := by
  have hhigh : level u .latch = .high := by simp [level_latch, h.ddr, hc, hoc]
  have hlow : level (u.setLt (latchTick p u.lt)) .latch = .low := by
    simp [level_latch, h.ddr, latchTick_connected, hc, hfall]
  have hedge : edgeOn u (u.setLt (latchTick p u.lt)) .latch = [{ line := .latch, level := .low }] := by
    simp [edgeOn, hhigh, hlow]
  rw [agentStep_lt hrun]
  refine { h.setLt (latchTick p u.lt) with edges := ?_ }
  rw [recordEdges_hist, hedge, edgeOn_of_eq (level_flicker_setLt u _).symm, List.append_nil]
  exact congrArg (· ++ _) h.edges

/-- A pulse's end: after LATCH_ARM with the line high the first compare event, and no earlier tick, records an edge. -/
theorem InTrigger.ticks_of_armed (h : InTrigger es fs ws u) (hw : u.lt.cmp < 2 ^ p.ltWidth) (hrun : u.lt.run = true)
    (hc : u.lt.connected = true) (h0 : u.lt.cnt = 0) (hoc : u.lt.oc = true) (hn : n ≤ u.lt.cmp + 1) :
    ∃ v, runMoves p (List.replicate n .lt) u = .next v ∧
      InTrigger (es ++ if n = u.lt.cmp + 1 then [{ line := .latch, level := .low }] else []) fs ws v ∧
      v.lt = latchTicks p n u.lt := by
  by_cases hlast : n = u.lt.cmp + 1
  · obtain ⟨hconn, -, hrun'⟩ := latchTicks_frame p u.lt.cmp u.lt
    have hbefore : latchTicks p u.lt.cmp u.lt = { u.lt with cnt := u.lt.cmp } := by
      rw [latchTicks_before_compare hw (by omega), h0, Nat.zero_add]
    have hticks := runMoves_ticks (n := u.lt.cmp) hrun (.inr ⟨hw, by omega⟩)
    have hfall : (latchTick p (latchTicks p u.lt.cmp u.lt)).oc = false := latchTicks_first_compare hw h0 hc hoc
    have hevent := (h.setLt (latchTicks p u.lt.cmp u.lt)).compareEvent (p := p) (hrun'.trans hrun) (hconn.trans hc)
      (by rw [setLt_lt, hbefore, hoc]) hfall
    refine ⟨agentStep p .lt (u.setLt (latchTicks p u.lt.cmp u.lt)), ?_, by rwa [if_pos hlast], ?_⟩
    · rw [hlast, List.replicate_succ', runMoves_append hticks]
      rfl
    · rw [agentStep_lt (hrun'.trans hrun), hlast]
      rfl
  · rw [if_neg hlast, List.append_nil]
    exact ⟨_, runMoves_ticks hrun (.inr ⟨hw, by omega⟩), h.setLt _, rfl⟩

/-- Step (5) from a high disconnected line, and ticks up to the first compare event, which takes the line down. -/
theorem InTrigger.arm (h : InTrigger es fs (0x2400 :: ws) u) (hp : p.Legal) (hdis : u.lt.connected = false)
    (hport : u.pins.port.latch = true) (hn : n ≤ p.latchCmp + 1) :
    ∃ v, runMoves p (.req :: List.replicate n .lt) u = .next v ∧
      InTrigger (es ++ if n = p.latchCmp + 1 then [{ line := .latch, level := .low }] else []) fs ws v ∧
      latchState v = .running := by
  obtain ⟨v, hop, hv, -, hlt⟩ := h.op (p := p) (i := .latchArm) rfl (by simp)
  have hlt : v.lt = { u.lt with cnt := 0, cmp := p.latchCmp, oc := true, connected := true, run := true } := by
    simp [hlt, effectOf, latchArm, hport]
  have hedge : edgeOn u (effectOf p .latchArm u) .latch = [] := edgeOn_of_eq (level_latch_latchArm p hdis).symm
  rw [hedge, List.append_nil] at hv
  obtain ⟨t, hticks, ht, htlt⟩ := hv.ticks_of_armed (p := p) (n := n) (by rw [hlt]; exact hp.latchCmp) (by rw [hlt])
    (by rw [hlt]) (by rw [hlt]) (by rw [hlt]) (by rw [hlt]; exact hn)
  obtain ⟨hconn, -, hrun⟩ := latchTicks_frame p n v.lt
  refine ⟨t, (runMoves_cons hop).trans hticks, by rwa [hlt] at ht, latchState_running.mpr ⟨?_, ?_⟩⟩
  · rw [htlt, hconn, hlt]
  · rw [htlt, hrun, hlt]

end

/-- Settles O39: from a low line (1) to (3) leave the line low, (4) takes the disconnected line up, and of (5) and the ticks after
it only the first compare event takes it down. -/
theorem latchTriggerMakesOnePulse : Obligations.LatchTriggerMakesOnePulse := by
  intro p s w a b c d e hp hidle hr hddr hlow hfit hquiet hwords he
  have h₀ : InTrigger s.hist.edges s.faults latchTriggerWords s := ⟨hidle, hr, hddr, hwords, rfl, rfl⟩
  obtain ⟨s₁, hrun₁, h₁, hlow₁⟩ := h₀.waitLow hlow w a hfit.ltCmp hquiet
  obtain ⟨s₂, hrun₂, h₂, hdis₂, hport₂⟩ := h₁.disconnect (p := p) hlow₁ b
  obtain ⟨s₃, hrun₃, h₃, hdis₃, hport₃⟩ := h₂.stop (p := p) hdis₂ hport₂ c
  obtain ⟨s₄, hrun₄, h₄, hdis₄, hport₄⟩ := h₃.driveHigh (p := p) hdis₃ hport₃ d
  obtain ⟨s₅, hrun₅, h₅, hrunning⟩ := h₄.arm hp hdis₄ hport₄ he
  have hrun₁₂ := (runMoves_append hrun₁).trans hrun₂
  have hrun₁₃ := (runMoves_append hrun₁₂).trans hrun₃
  have hrun₁₄ := (runMoves_append hrun₁₃).trans hrun₄
  exact ⟨s₅, (runMoves_append hrun₁₄).trans hrun₅, h₅.edges, hrunning, h₅.idle.2, List.map_eq_nil_iff.mp h₅.lines,
    h₅.faults⟩

end Sys2Proof.Machine

namespace Sys2Proof.Machine

/-! ### The two UART operations (43_uart.md R186, R187) -/

section
variable {p : Params} {i : Instr} {b d : Byte} {rest : List Byte} {s t : State}

/-- The two operations on the UART (43_uart.md R186, R187). -/
abbrev UartOp (i : Instr) : Prop := i = .uartRecv ∨ ∃ b, i = .uartSend b

/-- PIN_INIT and UART_INIT are all the setup a UART operation needs (40_init.md R100). -/
theorem precheck_uart (hi : UartOp i) (hr : s.pins.ready = true) (hc : s.uart.configured = true) : precheck i s = none := by
  rw [precheck_eq_none]
  rcases hi with rfl | ⟨b, rfl⟩ <;> simp [Instr.name, hr, hc]

/-- A UART operation's piece after its `await` writes the UART and the requester's variables only. -/
theorem effectOf_uart_frame (hi : UartOp i) :
    (effectOf p i s).pins = s.pins ∧ (effectOf p i s).spi = s.spi ∧ (effectOf p i s).lt = s.lt ∧
    (effectOf p i s).ft = s.ft := by
  rcases hi with rfl | ⟨b, rfl⟩
  · simp only [effectOf, uartTake]
    split <;> simp
  · simp [effectOf, uartQueue]

/-- The issue of a UART operation leaves it held, and writes nothing else. -/
theorem startOf_uart (hi : UartOp i) : startOf p i = holdAt i := by
  rcases hi with rfl | ⟨b, rfl⟩ <;> rfl

theorem waits_uart (hi : UartOp i) : waits i = true := by
  rcases hi with rfl | ⟨b, rfl⟩ <;> rfl

/-- Everything a UART operation can do: nothing; the fault of a failed check; its issue; the piece after its `await`. -/
theorem exec_uart_cases (hi : UartOp i) (h : exec i s = .next t) :
    t = s ∨ (∃ f, t = raiseReqFault f (.op i) s) ∨ t = holdAt i s ∨ t = (effectOf Config.params i s).setOp none := by
  have hx : execWith Config.params i s = .next t := exec_eq_execWith i s ▸ h
  rcases execWith_cases hx with ⟨-, rfl⟩ | ⟨-, f, -, rfl⟩ | ⟨-, -, rfl⟩ | ⟨-, rfl⟩ | ⟨-, -, rfl⟩
  · exact .inl rfl
  · exact .inr (.inl ⟨f, rfl⟩)
  · rw [startOf_uart hi]
    exact .inr (.inr (.inl (recordEdges_of_same rfl rfl rfl)))
  · rcases resumeOf_cases Config.params i s with ⟨-, -, e⟩ | e <;> rw [e]
    · obtain ⟨hpins, -, hlt, hft⟩ := effectOf_uart_frame (p := Config.params) (s := s) hi
      exact .inr (.inr (.inr (recordEdges_of_same hpins hlt hft)))
    · exact .inl (recordEdges_self s)
  · exact .inl rfl

/-- The issue of a UART operation after its setup. -/
theorem exec_uart_start (hi : UartOp i) (h : Idle s) (hr : s.pins.ready = true) (hc : s.uart.configured = true) :
    exec i s = .next (holdAt i s) := by
  rw [exec_start h (precheck_uart hi hr hc), startOf_uart hi]
  exact congrArg _ (recordEdges_of_same rfl rfl rfl)

/-- A held UART operation whose `await` holds runs its last piece and ends. -/
theorem exec_uart_pass (hi : UartOp i) (h : HeldAt i s) (ha : awaitHolds i s = true) :
    exec i s = .next ((effectOf Config.params i s).setOp none) := by
  obtain ⟨hpins, -, hlt, hft⟩ := effectOf_uart_frame (p := Config.params) (s := s) hi
  have hresume : resumeOf Config.params i s = (effectOf Config.params i s).setOp none := by
    rw [resumeOf, if_pos (waits_uart hi), awaitThen_pass ha]
  rw [exec_eq_execWith, execWith_resume h, hresume]
  exact congrArg _ (recordEdges_of_same hpins hlt hft)

/-- A held UART operation whose `await` does not hold stays held. -/
theorem exec_uart_still (hi : UartOp i) (h : HeldAt i s) (ha : awaitHolds i s = false) : exec i s = .next s := by
  have hresume : resumeOf Config.params i s = s := by rw [resumeOf, if_pos (waits_uart hi), awaitThen_still ha]
  rw [exec_eq_execWith, execWith_resume h, hresume, recordEdges_self]

/-! ### UART_RECV's taking of the head (43_uart.md R186) -/

theorem uartTake_nil (hq : s.uart.rxFifo = []) : uartTake s = s := by simp [uartTake, hq]

theorem uartTake_cons (hq : s.uart.rxFifo = d :: rest) :
    uartTake s = deliver d (s.setUart { s.uart with rxFifo := rest }) := by simp [uartTake, hq]

/-- Taking removes the FIFO's head and writes the requester's variables, and changes nothing else. -/
theorem uartTake_cons_eq (hq : s.uart.rxFifo = d :: rest) :
    uartTake s = { s with
      uart := { s.uart with rxFifo := rest }
      req := { s.req with x := (uartTake s).req.x } } := by
  rw [uartTake_cons hq]
  exact deliver_eq _ _

theorem uartTake_eq (s : State) :
    uartTake s = { s with
      uart := { s.uart with rxFifo := s.uart.rxFifo.tail }
      req := { s.req with x := (uartTake s).req.x } } := by
  cases hq : s.uart.rxFifo with
  | nil => rw [uartTake_nil hq, List.tail_nil, ← hq]
  | cons d rest => exact uartTake_cons_eq hq

/-- The byte taken stands in the destination, and no other variable changes. -/
theorem readVar_uartTake {n : Nat} (hq : s.uart.rxFifo = d :: rest) (hdst : s.req.dst = some n) (k : Nat) :
    readVar (uartTake s).req.x k = if k = n then d else readVar s.req.x k := by
  rw [uartTake_cons hq]
  exact readVar_deliver (s := s.setUart { s.uart with rxFifo := rest }) hdst k

/-- Without a destination the byte taken is discarded. -/
theorem uartTake_discarded (hq : s.uart.rxFifo = d :: rest) (hdst : s.req.dst = none) :
    (uartTake s).req.x = s.req.x := by
  rw [uartTake_cons hq]
  exact deliver_discarded (s := s.setUart { s.uart with rxFifo := rest }) hdst

/-- Every variable but the destination is as it was. -/
theorem readVar_uartTake_ne {k : Nat} (h : s.req.dst ≠ some k) : readVar (uartTake s).req.x k = readVar s.req.x k := by
  cases hq : s.uart.rxFifo with
  | nil => rw [uartTake_nil hq]
  | cons d rest =>
    rw [uartTake_cons hq]
    exact readVar_deliver_ne (s := s.setUart { s.uart with rxFifo := rest }) h

/-- Held with a byte there, UART_RECV takes it and ends. -/
theorem exec_uartRecv_pass (h : HeldAt .uartRecv s) (hq : s.uart.rxFifo = d :: rest) :
    exec .uartRecv s = .next ((uartTake s).setOp none) :=
  exec_uart_pass (.inl rfl) h (by simp [awaitHolds, rxReady, hq])

/-- Held with the FIFO empty, UART_RECV stays held. -/
theorem exec_uartRecv_still (h : HeldAt .uartRecv s) (hq : s.uart.rxFifo = []) : exec .uartRecv s = .next s :=
  exec_uart_still (.inl rfl) h (by simp [awaitHolds, rxReady, hq])

/-- Held with the buffer free, UART_SEND queues its byte and ends. -/
theorem exec_uartSend_pass (h : HeldAt (.uartSend b) s) (hfree : s.uart.txBuf = none) :
    exec (.uartSend b) s = .next ((uartQueue b s).setOp none) :=
  exec_uart_pass (.inr ⟨b, rfl⟩) h (by simp [awaitHolds, txReady, hfree])

/-- Held with the buffer taken, UART_SEND stays held. -/
theorem exec_uartSend_still (h : HeldAt (.uartSend b) s) (hfull : s.uart.txBuf ≠ none) : exec (.uartSend b) s = .next s :=
  exec_uart_still (.inr ⟨b, rfl⟩) h (by simpa [awaitHolds, txReady, Option.isSome_iff_ne_none] using hfull)

end

/-- Settles O45: the issue holds the operation, and held it takes the FIFO's head or waits for one; a state held already is the
state that the issue would leave. -/
theorem uartRecvResult : Obligations.UartRecvResult := by
  intro s held takes
  have htakes (hh : halted s = false) : takes held := by
    intro d rest hq
    have hheld : HeldAt .uartRecv held := ⟨hh, rfl⟩
    refine ⟨(uartTake held).setOp none, exec_uartRecv_pass hheld hq, ?_, uartTake_discarded (s := held) hq,
      fun n hdst => ⟨?_, fun k hk => ?_⟩⟩
    · exact congrArg (·.setOp none) (uartTake_cons_eq (s := held) hq)
    · exact (readVar_uartTake (s := held) hq hdst n).trans (if_pos rfl)
    · exact (readVar_uartTake (s := held) hq hdst k).trans (if_neg hk)
  refine ⟨fun hidle hr hc => ⟨exec_uart_start (.inl rfl) hidle hr hc, htakes hidle.1⟩,
    fun hheld => ⟨?_, exec_uartRecv_still hheld⟩⟩
  have hself : held = s := setOp_self hheld.2
  exact hself ▸ htakes hheld.1

/-- Settles O46: the issue holds the operation, and held it queues its byte or waits for the buffer. -/
theorem uartSendResult : Obligations.UartSendResult := by
  intro b s held queued
  refine ⟨fun hidle hr hc => ⟨exec_uart_start (.inr ⟨b, rfl⟩) hidle hr hc, fun hfree => ?_⟩,
    fun hheld => ⟨exec_uartSend_pass hheld, exec_uartSend_still hheld⟩⟩
  have hheld : HeldAt (.uartSend b) held := ⟨hidle.1, rfl⟩
  exact exec_uartSend_pass hheld hfree

/-- Settles O47: each of the four things that a UART operation can do changes only what the statement leaves free. (The name
`uartFrame` is the model's, for a frame's bit cells.) -/
theorem uartOperationFrame : Obligations.UartFrame := by
  intro i s t hi h
  rcases exec_uart_cases hi h with rfl | ⟨f, rfl⟩ | rfl | rfl
  · simp
  · simp [prefix_addFault]
  · simp
  · rcases hi with rfl | ⟨b, rfl⟩
    · have hvars (k : Nat) (hk : s.req.dst ≠ some k) := readVar_uartTake_ne hk
      simp only [effectOf]
      rw [uartTake_eq]
      simpa using hvars
    · simp [effectOf, uartQueue]

/-! ### A frame's arrival and the transmitter's move (43_uart.md R182 to R185, R188, R189) -/

section
variable {p : Params} {s : State}

/-- UTX moves no timed line, so its step records no edge (10_state.md R36). -/
theorem agentStep_utx (p : Params) (s : State) : agentStep p .utx s = utxStep s := by
  obtain ⟨buf, shift, sent, e⟩ := utxStep_changes s
  rw [e]
  exact agentStep_of_effect e rfl rfl rfl

/-- UP moves no timed line either. -/
theorem agentStep_up (p : Params) (d : Byte) (ok : Bool) (s : State) : agentStep p (.up d ok) s = upFrame p d ok s := by
  obtain ⟨fifo, got, faults, -, e⟩ := upFrame_changes p s d ok
  rw [e]
  exact agentStep_of_effect e rfl rfl rfl

theorem utxLoadEnabled_iff :
    utxLoadEnabled s = true ↔ s.uart.txEn = true ∧ s.uart.txShift = none ∧ ∃ x, s.uart.txBuf = some x := by
  simp [utxLoadEnabled, Option.isSome_iff_exists, and_assoc]

theorem utxDoneEnabled_iff : utxDoneEnabled s = true ↔ ∃ x, s.uart.txShift = some x := by
  simp [utxDoneEnabled, Option.isSome_iff_exists]

end

/-- Settles O44: a frame's arrival is one of the cases of `upFrame_cases`, and moves no timed line. -/
theorem frameArrivalRule : Obligations.FrameArrivalRule := by
  intro p d ok s put framed
  rw [agentStep_up]
  rcases upFrame_cases p d ok s with ⟨hoff, e⟩ | ⟨hon, u, hu, hcase⟩
  · exact ⟨rfl, fun _ => e, fun hon => by simp [hoff] at hon, fun hon => by simp [hoff] at hon⟩
  · have hframed : u = s.setFaults framed := by
      rcases hu with ⟨rfl, rfl⟩ | ⟨rfl, rfl⟩ <;> rfl
    subst hframed
    refine ⟨rfl, fun hoff => by simp [hoff] at hon, fun _ hfull => ?full, fun _ hroom => ?room⟩
    case full =>
      obtain ⟨-, e⟩ := hcase.resolve_right fun ⟨hroom, _⟩ => hroom hfull
      exact e
    case room =>
      obtain ⟨-, e⟩ := hcase.resolve_left fun ⟨hfull, _⟩ => hroom hfull
      exact e

/-- Settles O48: the transmitter's step is the one of its two steps that is enabled, and moves no timed line. -/
theorem transmitterSteps : Obligations.TransmitterSteps := by
  intro p s
  rw [agentStep_utx]
  refine ⟨fun x hen hshift hbuf => ?load, fun x hshift => ?done, utxLoadEnabled_iff, utxDoneEnabled_iff, ?move⟩
  case load => simp [utxStep, hshift, hen, hbuf, utxLoad, State.setUart]
  case done => simp [utxStep, hshift, utxDone, State.setUart, State.setHist]
  case move => rw [← utxLoadEnabled_iff, ← utxDoneEnabled_iff, moveEnabled, Bool.or_eq_true]

/-! ### The bytes queued for transmission (43_uart.md R187 to R189) -/

section
variable {p : Params} {m : Move} {i : Instr} {s t : State}

/-- What the move `m` may do to the bytes queued: nothing, or a held UART_SEND passes its `await` and adds its operand. -/
inductive SendStep (m : Move) (s t : State) : Prop where
  | keep (hstream : txStream t = txStream s)
  | send (b : Byte) (hm : m = .req) (hfree : s.uart.txBuf = none) (hheld : HeldAt (.uartSend b) s)
      (hbuf : t.uart.txBuf = some b) (hop : t.req.op = none) (hstream : txStream t = txStream s ++ [b])

/-- Where the transmitter's two buffers and what was sent are as they were, so are the bytes queued. -/
theorem txStream_congr (hbuf : t.uart.txBuf = s.uart.txBuf) (hshift : t.uart.txShift = s.uart.txShift)
    (hsent : t.hist.serialOut = s.hist.serialOut) : txStream t = txStream s := by
  simp [txStream, hbuf, hshift, hsent]

theorem txStream_deliver (v : Byte) (s : State) : txStream (deliver v s) = txStream s :=
  txStream_congr (by rw [deliver_uart]) (by rw [deliver_uart]) (by rw [deliver_hist])

/-- Of the operations' effects only UART_SEND's touches the bytes queued. -/
theorem txStream_effectOf (hi : ∀ b, i ≠ .uartSend b) : txStream (effectOf p i s) = txStream s := by
  cases i with
  | uartSend b => exact absurd rfl (hi b)
  | uartRecv => rw [effectOf, uartTake_eq]; rfl
  | spiXfer _ => exact txStream_deliver _ _
  | latchRead => exact txStream_deliver _ _
  | pinInit | uartInit | spiInit | flickerStart | latchWaitLow | latchDisconnect | latchTimerStop | latchDriveHigh
  | latchArm => rfl

/-- UART_SEND with the buffer free puts its byte after those queued (43_uart.md R187). -/
theorem txStream_uartQueue {b : Byte} (hfree : s.uart.txBuf = none) : txStream (uartQueue b s) = txStream s ++ [b] := by
  simp [txStream, uartQueue, hfree]

/-- No operation's issue queues a byte. -/
theorem txStream_startOf (p : Params) (i : Instr) (s : State) : txStream (startOf p i s) = txStream s := by
  cases hw : waits i with
  | false =>
    rw [startOf_of_not_waits hw]
    exact txStream_effectOf fun b hb => by simp [hb, waits] at hw
  | true => rcases startOf_of_waits (p := p) (s := s) hw with e | ⟨b, -, e⟩ <;> rw [e] <;> rfl

/-- A held operation that passes queues a byte only as a UART_SEND, which has found the buffer free. -/
theorem SendStep.resumeOf (hheld : HeldAt i s) : SendStep .req s (recordEdges s (resumeOf p i s)) := by
  rcases resumeOf_cases p i s with ⟨-, hawait, e⟩ | e <;> rw [e]
  · by_cases hi : ∃ b, i = .uartSend b
    · obtain ⟨b, rfl⟩ := hi
      have hfree : s.uart.txBuf = none := Option.isNone_iff_eq_none.mp hawait
      exact .send b rfl hfree hheld rfl rfl (txStream_uartQueue hfree)
    · exact .keep (txStream_effectOf fun b hb => hi ⟨b, hb⟩)
  · exact .keep rfl

theorem SendStep.execWith (h : execWith p i s = .next t) : SendStep .req s t := by
  rcases execWith_cases h with ⟨-, rfl⟩ | ⟨-, f, -, rfl⟩ | ⟨-, -, rfl⟩ | ⟨hheld, rfl⟩ | ⟨-, -, rfl⟩
  · exact .keep rfl
  · exact .keep rfl
  · exact .keep (txStream_startOf p i s)
  · exact .resumeOf hheld
  · exact .keep rfl

/-- Taking a line up is no part of a UART_SEND in progress. -/
theorem SendStep.of_takeLine {r : Request} {rest : List Request} (h : SendStep m (takeLine r rest s) t) : SendStep m s t := by
  cases h with
  | keep hstream => exact .keep hstream
  | send b hm hfree hheld hbuf hop hstream => exact .send b hm hfree hheld hbuf hop hstream

/-- The transmitter moves a byte along its two buffers to the end of what was sent (43_uart.md R188, R189). -/
theorem txStream_utxStep (s : State) : txStream (utxStep s) = txStream s := by
  rcases utxStep_cases s with ⟨x, hshift, e⟩ | ⟨hshift, -, x, hbuf, e⟩ | ⟨-, e⟩ <;> rw [e]
  · simp [txStream, utxDone, hshift]
  · simp [txStream, utxLoad, hshift, hbuf]

theorem txStream_agentStep (p : Params) (m : Move) (s : State) : txStream (agentStep p m s) = txStream s := by
  by_cases hm : m = .utx
  · rw [hm, agentStep_utx, txStream_utxStep]
  · obtain ⟨-, -, -, -, -, -, -, -, -, -, -, -, hutx, -⟩ := agentFrame p m s
    obtain ⟨hbuf, hshift, hsent⟩ := hutx hm
    exact txStream_congr hbuf hshift hsent

theorem SendStep.takeMove (h : takeMove p m s = .next t) : SendStep m s t := by
  rcases takeMove_cases h with ⟨rfl, h⟩ | ⟨-, rfl⟩
  · rcases reqStep_cases h with rfl | ⟨-, i, -, -, h⟩ | ⟨-, r, rest, i, -, -, h⟩ | ⟨-, r, rest, e, -, -, rfl⟩
    · exact .keep rfl
    · exact .execWith h
    · exact (SendStep.execWith h).of_takeLine
    · exact .keep rfl
  · exact .keep (txStream_agentStep p m s)

end

/-- Settles O49: a move keeps the bytes queued, but for a held UART_SEND that passes its `await`. -/
theorem sentBytesFollowSends : Obligations.SentBytesFollowSends := by
  intro p m s t h
  cases SendStep.takeMove h with
  | keep hstream => exact .inl hstream
  | send b hm hfree hheld hbuf hop hstream => exact .inr ⟨hm, hfree, b, hheld, hbuf, hop, hstream⟩

end Sys2Proof.Machine

namespace Sys2Proof.Machine

/-! ### Bits to bytes and back (43_uart.md R180, 20_memory.md R61) -/

/-- Bit `k` of the byte that bits make is the `k`th of them. -/
theorem getLsbD_byteOfBits {bs : List Bool} {k : Nat} (hk : k < 8) : (byteOfBits bs).getLsbD k = bs.getD k false := by
  induction bs generalizing k with
  | nil => simp [byteOfBits]
  | cons a as ih =>
    have hcons : byteOfBits (a :: as) = byteOfBits as <<< 1 ||| (if a then 1 else 0) := rfl
    cases k with
    | zero => cases a <;> simp [hcons]
    | succ k =>
      have hbit : (if a then 1 else 0 : Byte).getLsbD (k + 1) = false := by cases a <;> simp
      rw [hcons, BitVec.getLsbD_or, BitVec.getLsbD_shiftLeft, hbit]
      simp [hk, ih (Nat.lt_of_succ_lt hk)]

/-- A byte's bits, least significant first, make the byte. -/
theorem byteOfBits_lsbFirst (b : Byte) : byteOfBits ((List.range 8).map b.getLsbD) = b := by
  refine BitVec.eq_of_getLsbD_eq fun k hk => ?_
  rw [getLsbD_byteOfBits hk]
  simp [hk]

/-- Most significant first is the other order read backwards. -/
theorem reverse_msbFirst (b : Byte) : ((List.range 8).map b.getMsbD).reverse = (List.range 8).map b.getLsbD := by
  refine List.ext_getElem (by simp) fun k hk _ => ?_
  simp only [List.length_reverse, List.length_map, List.length_range] at hk
  have hback : 7 - (7 - k) = k := by omega
  have hpos : 7 - k < 8 := by omega
  simp [BitVec.getMsbD, hback, hpos]

/-- Bits shifted out and in by the same order make the byte (20_memory.md R61). -/
theorem spiByte_spiBits (o : BitOrder) (b : Byte) : spiByte o (spiBits o b) = b := by
  cases o with
  | lsbFirst => exact byteOfBits_lsbFirst b
  | msbFirst => simp only [spiByte, spiBits, reverse_msbFirst, byteOfBits_lsbFirst]

theorem length_spiBits (o : BitOrder) (b : Byte) : (spiBits o b).length = 8 := by cases o <;> simp [spiBits]

/-- A receiver reads back what a frame carries (43_uart.md R180). -/
theorem uartSample_uartFrame (d : Byte) (stop : Bool) : uartSample (uartFrame d stop) = some (d, stop) := by
  have hdata : ((List.range 8).map d.getLsbD).length = 8 := by simp
  have htake : ((List.range 8).map d.getLsbD ++ [stop]).take 8 = (List.range 8).map d.getLsbD := List.take_left' hdata
  have hstop : ((List.range 8).map d.getLsbD ++ [stop]).getD 8 true = stop := by simp
  simp only [uartFrame, uartSample, htake, hstop, byteOfBits_lsbFirst]
  simp

/-! ### Two half cycles a bit (41_spi.md R123) -/

section
variable {α β : Type} (f g : α → β) (as : List α)

/-- In a list of pairs laid end to end the `k`th pair stands at `2 * k` and `2 * k + 1`. -/
theorem getElem?_flatMap_pair (k : Nat) :
    (as.flatMap fun a => [f a, g a])[2 * k]? = as[k]?.map f ∧
    (as.flatMap fun a => [f a, g a])[2 * k + 1]? = as[k]?.map g := by
  induction as generalizing k with
  | nil => simp
  | cons a as ih =>
    cases k with
    | zero => simp
    | succ k => simpa [Nat.mul_succ] using ih k

theorem length_flatMap_pair : (as.flatMap fun a => [f a, g a]).length = 2 * as.length := by
  simp [List.length_flatMap, Nat.mul_comm]

end

/-- Settles O60: reading bits back undoes laying them out, in a frame and in either bit order; each bit has two half cycles. -/
theorem linesCarryTheByte : Obligations.LinesCarryTheByte := by
  refine ⟨fun d stop => ⟨rfl, rfl, fun k hk => ?cell, rfl, uartSample_uartFrame d stop⟩,
    fun o cpol b => ⟨spiByte_spiBits o b, length_spiBits o b, ?_, fun k hk => ?cycle⟩⟩
  case cell => simp [uartFrame, List.getElem?_append, hk]
  case cycle =>
    obtain ⟨hleading, htrailing⟩ := getElem?_flatMap_pair (fun bit => (!cpol, bit)) (fun bit => (cpol, bit)) (spiBits o b) k
    refine ⟨hleading, htrailing, ?_, ?_⟩
    · simp [spiBits, hk, BitVec.getMsbD]
    · simp [spiBits, hk]
  · rw [spiWave, length_flatMap_pair, length_spiBits]

end Sys2Proof.Machine

namespace Sys2Proof.Machine

/-! ### The requester after its fault (60_exceptions.md R212, R218) -/

/-- Settles O14: a halted requester's move changes nothing, and no other agent writes the requester, the pins or the faults that
halt it. -/
theorem haltedRequesterNeverMoves : Obligations.HaltedRequesterNeverMoves := by
  intro p ms s t hhalted hrun
  obtain ⟨hh, hreq, hpins⟩ := runMoves_keeps (p := p) (P := fun u => halted u = true ∧ u.req = s.req ∧ u.pins = s.pins)
    (hk := fun m _ u v ⟨hh, hreq, hpins⟩ hmove => by
      rcases takeMove_cases hmove with ⟨-, hmove⟩ | ⟨-, rfl⟩
      · rw [reqStep_halted hh] at hmove
        injection hmove with hmove
        exact hmove ▸ ⟨hh, hreq, hpins⟩
      · obtain ⟨-, hpins', hreq', -⟩ := agentFrame p m u
        exact ⟨(halted_agentStep p m u).trans hh, hreq'.trans hreq, hpins'.trans hpins⟩)
    ⟨hhalted, rfl, rfl⟩ hrun
  exact ⟨hh, hreq, hpins, reqStep_halted hh⟩

/-! ### The interrupt enables (60_exceptions.md R214, 10_state.md R39) -/

section
variable {p : Params} {s t : State}

/-- With the enables 0 no source's interrupt is pending, whatever its condition. -/
theorem EnablesZero.irqPending (h : EnablesZero s) (q : IrqSource) : irqPending s q = false := by
  obtain ⟨hrxc, hudre, hspi, hlt, hft⟩ := h
  have henable : irqEnable s q = false := by cases q <;> assumption
  rw [Machine.irqPending, henable, Bool.false_and]

/-- The enables are in the four units that `units` lists. -/
theorem EnablesZero.congr (h : EnablesZero s) (hunits : units t = units s) : EnablesZero t := by
  simp only [units, Prod.mk.injEq] at hunits
  obtain ⟨-, huart, hspi, hlt, hft⟩ := hunits
  simpa only [EnablesZero, huart, hspi, hlt, hft] using h

theorem EnablesZero.deliver (h : EnablesZero s) (v : Byte) : EnablesZero (deliver v s) := h.congr (by simp [units])

/-- No operation writes an enable (10_state.md R39). -/
theorem EnablesZero.effectOf (h : EnablesZero s) (i : Instr) : EnablesZero (effectOf p i s) := by
  cases i with
  | spiXfer _ =>
    have hdone : EnablesZero (s.setSpi { s.spi with done := false }) := h
    exact hdone.deliver _
  | latchRead => exact h.deliver _
  | uartRecv =>
    show EnablesZero (uartTake s)
    rw [uartTake_eq]
    exact h
  | pinInit | uartInit | spiInit | flickerStart | latchWaitLow | latchDisconnect | latchTimerStop | latchDriveHigh
  | latchArm | uartSend _ => exact h

/-- No agent writes an enable (10_state.md R39). -/
theorem EnablesZero.agentStep (h : EnablesZero s) (m : Move) : EnablesZero (agentStep p m s) := by
  obtain ⟨-, -, -, -, -, -, -, -, hlt, hft, hspi, huart, -⟩ := agentFrame p m s
  rw [EnablesZero, huart, hspi, hlt, hft]
  exact h

theorem EnablesZero.useChoice (h : EnablesZero s) : EnablesZero (useChoice s) := by
  obtain ⟨hpins, huart, hspi, hlt, hft, -⟩ := useChoice_frame s
  exact h.congr (by simp only [units, hpins, huart, hspi, hlt, hft])

theorem EnablesZero.execWith {i : Instr} (h : EnablesZero s) (hx : execWith p i s = .next t) : EnablesZero t :=
  execWith_keeps (P := EnablesZero) (hop := fun _ _ h => h) (hedges := fun _ _ h => h) (hfault := fun _ _ _ _ h => h)
    (hspi := fun _ _ h => h) (heffect := fun i _ h => h.effectOf i) i s t h hx

theorem EnablesZero.stepWith (h : EnablesZero s) (hx : stepWith p s = .next t) : EnablesZero t :=
  stepWith_keeps (P := EnablesZero) (hchoice := fun _ h => h.useChoice) (hline := fun _ _ _ _ h => h)
    (hill := fun _ _ _ h => h) (hagent := fun m _ _ h => h.agentStep m) (hexec := fun _ _ _ h hx => h.execWith hx) h hx

end

/-- Settles O16: nothing writes an enable, and a pending interrupt needs its own set. -/
theorem noInterruptEverPending : Obligations.NoInterruptEverPending :=
  fun _ h => ⟨h.irqPending, fun _ _ hx => h.stepWith hx⟩

end Sys2Proof.Machine

namespace Sys2Proof.Machine

/-! ### What an endless run keeps and reaches (60_exceptions.md R226) -/

section
variable {p : Params} {m : Move}

/-- Weak fairness at work: where `P` enables the agent `m`, its move under `P` makes `Q` true, and every other move keeps `P` or
makes `Q` true, a run that is fair to `m` goes from `P` to `Q`. -/
theorem Execution.Fair.leadsTo {e : Execution p} (hfair : e.Fair m) {P Q : State → Prop} {n : Nat}
    (henabled : ∀ s, P s → moveEnabled m s = true)
    (hmove : ∀ s t, P s → takeMove p m s = .next t → Q t)
    (hother : ∀ m' s t, m' ≠ m → P s → takeMove p m' s = .next t → P t ∨ Q t) (hn : P (e.states n)) :
    ∃ k, n < k ∧ Q (e.states k) := by
  have hstep (m' : Move) (s t : State) (hs : P s) (hx : takeMove p m' s = .next t) : P t ∨ Q t := by
    by_cases hm : m' = m
    · exact .inr (hmove s t hs (hm ▸ hx))
    · exact hother m' s t hm hs hx
  by_contra hnever
  have hnot (k : Nat) (hk : n ≤ k) : ¬ Q (e.states (k + 1)) := fun hq => hnever ⟨k + 1, Nat.lt_succ_of_le hk, hq⟩
  have hforever (k : Nat) (hk : n ≤ k) : P (e.states k) := by
    induction k, hk using Nat.le_induction with
    | base => exact hn
    | succ k hk ih => exact (hstep _ _ _ ih (e.ok k)).resolve_right (hnot k hk)
  obtain ⟨k, hk, hmk⟩ := hfair n fun k hk => henabled _ (hforever k hk)
  exact hnot k hk (hmove _ _ (hforever k hk) (hmk ▸ e.ok k))

/-- The move of an agent beside the requester is its step, and answers no other state. -/
theorem eq_agentStep_of_takeMove {s t : State} (h : takeMove p m s = .next t) (hm : m ≠ .req) : t = agentStep p m s :=
  (takeMove_cases h).elim (fun hreq => absurd hreq.1 hm) And.right

/-- What every move keeps: a property that taking a line up keeps, an illegal word's fault keeps, the agent's step keeps, and
every operation keeps. -/
theorem takeMove_keeps {P : State → Prop} (hline : ∀ r rest s, P s → P (takeLine r rest s))
    (hill : ∀ w s, P s → P (raiseIllegal w s)) (hagent : ∀ s, P s → P (agentStep p m s))
    (hexec : ∀ i s t, P s → execWith p i s = .next t → P t) {s t : State} (hs : P s) (h : takeMove p m s = .next t) :
    P t := by
  rcases takeMove_cases h with ⟨-, h⟩ | ⟨-, rfl⟩
  · rcases reqStep_cases h with rfl | ⟨-, i, -, -, h⟩ | ⟨-, r, rest, i, -, -, h⟩ | ⟨-, r, rest, e, -, -, rfl⟩
    · exact hs
    · exact hexec i _ _ hs h
    · exact hexec i _ _ (hline r rest _ hs) h
    · exact hill _ _ (hline r rest _ hs)
  · exact hagent _ hs

end

/-! ### A held SPI_XFER returns (41_spi.md R124) -/

section
variable {p : Params} {m : Move} {b : Byte} {sent : List Byte} {s t : State}

/-- An SPI_XFER of `b` waits for its transfer at an enabled unit, and `sent` has been handed to the bus, `b` last. -/
structure AwaitsTransfer (b : Byte) (sent : List Byte) (s : State) : Prop where
  held     : HeldAt (.spiXfer b) s
  protocol : SpiProtocol s
  enabled  : s.spi.en = true
  stream   : busStream s = sent

/-- A transfer is in progress only at an enabled unit (40_init.md R100). -/
theorem SpiProtocol.enabled_of_held (h : SpiProtocol s) (hsetup : SetupShape s) (hheld : HeldAt (.spiXfer b) s) :
    s.spi.en = true := by
  by_contra hen
  obtain ⟨hshift, hdone⟩ := hsetup.spiOff (Bool.eq_false_of_not_eq_true hen)
  rcases h.held b hheld.2 with hb | hd
  · simp [hshift] at hb
  · simp [hdone] at hd

theorem AwaitsTransfer.shifting (h : AwaitsTransfer b sent s) (hdone : s.spi.done = false) : s.spi.shiftOut = some b :=
  (h.protocol.held b h.held.2).resolve_right (by simp [hdone])

/-- A complete transfer has every byte handed over on the bus. -/
theorem AwaitsTransfer.busOut_of_done (h : AwaitsTransfer b sent s) (hdone : s.spi.done = true) : s.hist.busOut = sent := by
  obtain ⟨hshift, -⟩ := h.protocol.complete hdone
  simpa [busStream, hshift] using h.stream

/-- No agent beside the requester ends the wait. -/
theorem AwaitsTransfer.agentStep (h : AwaitsTransfer b sent s) (hm : m ≠ .req) :
    AwaitsTransfer b sent (agentStep p m s) := by
  obtain ⟨-, -, hreq, -, -, -, -, -, -, -, hspi, -⟩ := agentFrame p m s
  obtain ⟨hhalted, hop⟩ := h.held
  have hstream : busStream (Machine.agentStep p m s) = busStream s := by
    rcases busBytesFollowTransfers p m s _ h.protocol (takeMove_agent hm s) with hsame | ⟨hreq, -⟩
    · exact hsame
    · exact absurd hreq hm
  exact
    { held := ⟨(halted_agentStep p m s).trans hhalted, by rw [hreq, hop]⟩
      protocol := h.protocol.transferStep (.agentStep p m s)
      enabled := by rw [hspi]; exact h.enabled
      stream := hstream.trans h.stream }

/-- Only the requester clears the flag of a complete transfer. -/
theorem done_agentStep (hdone : s.spi.done = true) : (agentStep p m s).spi.done = true := by
  by_cases hm : m = .spie
  · subst hm
    show (spieStep p s).spi.done = true
    rcases spieStep_cases p s with ⟨-, c, -, e⟩ | ⟨-, e⟩ <;> rw [e]
    · rfl
    · exact hdone
  · obtain ⟨-, -, -, -, -, -, -, hspi, -⟩ := agentFrame p m s
    rw [hspi hm, hdone]

/-- The requester's move while its SPI_XFER is held: it stays, or it collects a complete transfer. -/
theorem takeMove_req_spiXfer (h : HeldAt (.spiXfer b) s) :
    takeMove p .req s = .next (if s.spi.done then (spiCollect s).setOp none else s) := by
  rw [takeMove_req, reqStep_held h]
  exact exec_spiXfer_held h

/-- A move while the transfer is in progress leaves the SPI_XFER waiting. -/
theorem AwaitsTransfer.takeMove_of_shifting (h : AwaitsTransfer b sent s) (hdone : s.spi.done = false)
    (hx : takeMove p m s = .next t) : AwaitsTransfer b sent t := by
  by_cases hm : m = .req
  · rw [hm, takeMove_req_spiXfer h.held, hdone] at hx
    injection hx with hx
    exact hx ▸ h
  · exact eq_agentStep_of_takeMove hx hm ▸ h.agentStep hm

/-- Under `fair_spi` the engine completes the transfer. -/
theorem Execution.FairSpi.transferCompletes {e : Execution p} {n : Nat} (hfair : e.FairSpi)
    (h : AwaitsTransfer b sent (e.states n)) (hdone : (e.states n).spi.done = false) :
    ∃ k, n < k ∧ AwaitsTransfer b sent (e.states k) ∧ (e.states k).spi.done = true := by
  refine hfair.leadsTo (P := fun s => AwaitsTransfer b sent s ∧ s.spi.done = false)
    (Q := fun s => AwaitsTransfer b sent s ∧ s.spi.done = true) ?enabled ?move ?other ⟨h, hdone⟩
  case enabled =>
    rintro s ⟨h, hdone⟩
    simp [moveEnabled, spieEnabled, h.enabled, h.shifting hdone]
  case move =>
    rintro s t ⟨h, hdone⟩ hx
    refine ⟨h.takeMove_of_shifting hdone hx, ?_⟩
    rw [eq_agentStep_of_takeMove hx nofun, agentStep_spie h.enabled (h.shifting hdone)]
    rfl
  case other =>
    rintro m s t - ⟨h, hdone⟩ hx
    have ht := h.takeMove_of_shifting hdone hx
    by_cases hd : t.spi.done = true
    · exact .inr ⟨ht, hd⟩
    · exact .inl ⟨ht, Bool.eq_false_of_not_eq_true hd⟩

/-- Under `fair_req` the requester collects a complete transfer. -/
theorem Execution.FairReq.transferCollected {e : Execution p} {n : Nat} (hfair : e.FairReq)
    (h : AwaitsTransfer b sent (e.states n)) (hdone : (e.states n).spi.done = true) :
    ∃ k, n < k ∧ (e.states k).req.op = none ∧ (e.states k).spi.done = false ∧ (e.states k).hist.busOut = sent := by
  refine hfair.leadsTo (P := fun s => AwaitsTransfer b sent s ∧ s.spi.done = true)
    (Q := fun s => s.req.op = none ∧ s.spi.done = false ∧ s.hist.busOut = sent) ?enabled ?move ?other ⟨h, hdone⟩
  case enabled =>
    rintro s ⟨h, hdone⟩
    obtain ⟨hhalted, hop⟩ := h.held
    simp [moveEnabled, reqEnabled, hhalted, hop, awaitHolds, hdone]
  case move =>
    rintro s t ⟨h, hdone⟩ hx
    rw [takeMove_req_spiXfer h.held, hdone, if_pos rfl] at hx
    injection hx with hx
    rw [← hx, setOp_hist, spiCollect_hist, setOp_spi, spiCollect_eq]
    exact ⟨rfl, rfl, h.busOut_of_done hdone⟩
  case other =>
    rintro m s t hm ⟨h, hdone⟩ hx
    rw [eq_agentStep_of_takeMove hx hm]
    exact .inl ⟨h.agentStep hm, done_agentStep hdone⟩

end

/-- Settles O57: the engine completes the transfer unless it has done so already, and then the requester collects it. -/
theorem fairSpiTransferCompletes : Obligations.FairSpiTransferCompletes := by
  intro p e n b hspi hreq hsetup hprotocol hheld
  have h : AwaitsTransfer b (busStream (e.states n)) (e.states n) :=
    ⟨hheld, hprotocol, hprotocol.enabled_of_held hsetup hheld, rfl⟩
  cases hdone : (e.states n).spi.done with
  | true => exact hreq.transferCollected h hdone
  | false =>
    obtain ⟨k, hk, h', hdone'⟩ := hspi.transferCompletes h hdone
    obtain ⟨l, hl, hreturned⟩ := hreq.transferCollected h' hdone'
    exact ⟨l, hk.trans hl, hreturned⟩

end Sys2Proof.Machine

namespace Sys2Proof.Machine

/-! ### A queued byte leaves on TXD (43_uart.md R192) -/

section
variable {p : Params} {m : Move} {i : Instr} {x y : Byte} {shift buf : Option Byte} {sent : List Byte} {s t : State}

/-- Where the enabled transmitter stands: `sent` has left, `shift` is in the shift register, and the byte `buf`, where one is
named, waits in the buffer. -/
structure Transmitting (shift buf : Option Byte) (sent : List Byte) (s : State) : Prop where
  txEn    : s.uart.txEn = true
  txShift : s.uart.txShift = shift
  sent    : s.hist.serialOut = sent
  txBuf   : ∀ x ∈ buf, s.uart.txBuf = some x

/-- The byte in the buffer may go unnamed. -/
theorem Transmitting.anyBuf (h : Transmitting shift buf sent s) : Transmitting shift none sent s := { h with txBuf := nofun }

/-- Without a byte named in the buffer, an update that keeps the transmitter on, its shift register and what was sent leaves it
where it stands. -/
theorem Transmitting.congr (h : Transmitting shift none sent s) (hen : s.uart.txEn = true → t.uart.txEn = true)
    (hshift : t.uart.txShift = s.uart.txShift) (hhist : t.hist.serialOut = s.hist.serialOut) :
    Transmitting shift none sent t :=
  ⟨hen h.txEn, hshift.trans h.txShift, hhist.trans h.sent, nofun⟩

theorem Transmitting.deliver (h : Transmitting shift none sent s) (v : Byte) :
    Transmitting shift none sent (deliver v s) :=
  h.congr (by simp) (by simp) (by simp)

/-- No operation stops the transmitter or touches its shift register. -/
theorem Transmitting.effectOf (h : Transmitting shift none sent s) (i : Instr) :
    Transmitting shift none sent (effectOf p i s) := by
  cases i with
  | uartInit => exact h.congr (fun _ => rfl) rfl rfl
  | spiXfer _ =>
    have hdone : Transmitting shift none sent (s.setSpi { s.spi with done := false }) := h.congr id rfl rfl
    exact hdone.deliver _
  | latchRead => exact h.deliver _
  | uartRecv =>
    show Transmitting shift none sent (uartTake s)
    rw [uartTake_eq]
    exact h.congr id rfl rfl
  | pinInit | spiInit | flickerStart | latchWaitLow | latchDisconnect | latchTimerStop | latchDriveHigh | latchArm
  | uartSend _ => exact h.congr id rfl rfl

theorem Transmitting.execWith (h : Transmitting shift none sent s) (hx : execWith p i s = .next t) :
    Transmitting shift none sent t :=
  execWith_keeps (P := Transmitting shift none sent) (hop := fun _ _ h => h.congr id rfl rfl)
    (hedges := fun _ _ h => h.congr id rfl rfl) (hfault := fun _ _ _ _ h => h.congr id rfl rfl)
    (hspi := fun _ _ h => h.congr id rfl rfl) (heffect := fun i _ h => h.effectOf i) i s t h hx

/-- No agent but UTX takes a byte further (43_uart.md R188, R189). -/
theorem Transmitting.agentStep (h : Transmitting shift none sent s) (hm : m ≠ .utx) :
    Transmitting shift none sent (agentStep p m s) := by
  obtain ⟨-, -, -, -, -, -, -, -, -, -, -, huart, hutx, -⟩ := agentFrame p m s
  obtain ⟨-, hshift, hsent⟩ := hutx hm
  exact h.congr (fun hen => by rw [huart]; exact hen) hshift hsent

/-- A move of another agent leaves the shift register and what was sent, and the waiting byte too: a UART_SEND finds its buffer
taken. -/
theorem Transmitting.takeMove (h : Transmitting shift buf sent s) (hm : m ≠ .utx) (hx : takeMove p m s = .next t) :
    Transmitting shift buf sent t := by
  have ht : Transmitting shift none sent t := takeMove_keeps (P := Transmitting shift none sent)
    (hline := fun _ _ _ h => h.congr id rfl rfl) (hill := fun _ _ h => h.congr id rfl rfl)
    (hagent := fun _ h => h.agentStep hm) (hexec := fun _ _ _ h hx => h.execWith hx) h.anyBuf hx
  refine { ht with txBuf := fun x hx' => ?_ }
  have hbuf : s.uart.txBuf = some x := h.txBuf x hx'
  cases SendStep.takeMove hx with
  | send _ _ hfree _ _ _ _ => simp [hfree] at hbuf
  | keep hstream =>
    simpa [txStream, ht.txShift, ht.sent, h.txShift, h.sent, hbuf] using hstream

/-- Under `fair_tx` the byte being shifted out leaves, and the one that waits goes on waiting. -/
theorem Execution.FairTx.sends {e : Execution p} {n : Nat} (hfair : e.FairTx)
    (h : Transmitting (some y) buf sent (e.states n)) :
    ∃ k, n < k ∧ Transmitting none buf (sent ++ [y]) (e.states k) := by
  refine hfair.leadsTo (P := Transmitting (some y) buf sent) (Q := Transmitting none buf (sent ++ [y]))
    (fun s h => ?enabled) (fun s t h hx => ?move) (fun m s t hm h hx => .inl (h.takeMove hm hx)) h
  case enabled => simp [moveEnabled, utxDoneEnabled, h.txShift]
  case move =>
    have ht : t = utxDone y s := by
      rw [eq_agentStep_of_takeMove hx nofun, agentStep_utx, utxStep, h.txShift]
    exact ht ▸ ⟨h.txEn, rfl, congrArg (· ++ [y]) h.sent, h.txBuf⟩

/-- Under `fair_tx` a waiting byte goes to the free shift register. -/
theorem Execution.FairTx.loads {e : Execution p} {n : Nat} (hfair : e.FairTx)
    (h : Transmitting none (some x) sent (e.states n)) :
    ∃ k, n < k ∧ Transmitting (some x) none sent (e.states k) := by
  refine hfair.leadsTo (P := Transmitting none (some x) sent) (Q := Transmitting (some x) none sent)
    (fun s h => ?enabled) (fun s t h hx => ?move) (fun m s t hm h hx => .inl (h.takeMove hm hx)) h
  case enabled => simp [moveEnabled, utxLoadEnabled, h.txShift, h.txEn, h.txBuf x rfl]
  case move =>
    have ht : t = utxLoad x s := by
      rw [eq_agentStep_of_takeMove hx nofun, agentStep_utx]
      simp only [utxStep, h.txShift, h.txEn, h.txBuf x rfl, if_true]
    exact ht ▸ ⟨h.txEn, rfl, h.sent, nofun⟩

/-- Under `fair_tx` a waiting byte behind a free shift register leaves. -/
theorem Execution.FairTx.sendsWaiting {e : Execution p} {n : Nat} (hfair : e.FairTx)
    (h : Transmitting none (some x) sent (e.states n)) :
    ∃ k, n < k ∧ (e.states k).hist.serialOut = sent ++ [x] := by
  obtain ⟨k, hk, hloaded⟩ := hfair.loads h
  obtain ⟨l, hl, hsent⟩ := hfair.sends hloaded
  exact ⟨l, hk.trans hl, hsent.sent⟩

end

/-- Settles O58: the byte in the shift register leaves, if there is one, and then the waiting byte is loaded and leaves. -/
theorem fairTransmitterSendsQueuedByte : Obligations.FairTransmitterSendsQueuedByte := by
  intro p e n x hfair hen hbuf
  have h : Transmitting (e.states n).uart.txShift (some x) (e.states n).hist.serialOut (e.states n) :=
    ⟨hen, rfl, rfl, fun y hy => hbuf.trans hy⟩
  cases hshift : (e.states n).uart.txShift with
  | none =>
    obtain ⟨k, hk, hsent⟩ := hfair.sendsWaiting (hshift ▸ h)
    exact ⟨k, hk, by simp [txStream, hshift, hbuf, hsent]⟩
  | some y =>
    obtain ⟨k, hk, hnext⟩ := hfair.sends (hshift ▸ h)
    obtain ⟨l, hl, hsent⟩ := hfair.sendsWaiting hnext
    exact ⟨l, hk.trans hl, by simp [txStream, hshift, hbuf, hsent]⟩

end Sys2Proof.Machine

namespace Sys2Proof.Machine

/-! ### The flicker line moves again and again (42_latch_flicker.md R171) -/

section
variable {p : Params} {m : Move} {i : Instr} {f : Timer} {s t : State}

/-- The flicker timer is `f`, running and connected to its line, an output. -/
structure Flickering (f : Timer) (s : State) : Prop where
  ft        : s.ft = f
  run       : f.run = true
  connected : f.connected = true
  ddr       : s.pins.ddr.flicker = true

theorem Flickering.congr (h : Flickering f s) (hft : t.ft = s.ft) (hpins : t.pins = s.pins) : Flickering f t :=
  { h with ft := hft.trans h.ft, ddr := hpins ▸ h.ddr }

/-- The line shows the compare output (42_latch_flicker.md R140). -/
theorem Flickering.level (h : Flickering f s) : level s .flicker = drive f.oc := by
  simp [level_flicker, h.ft, h.ddr, h.connected]

/-- Of the operations' effects only FLICKER_START's touches the flicker timer, and none makes its line an input. -/
theorem Flickering.effectOf (h : Flickering f s) (hi : i ≠ .flickerStart) : Flickering f (effectOf p i s) := by
  cases i with
  | flickerStart => exact absurd rfl hi
  | pinInit => exact { h with ddr := rfl }
  | spiXfer _ | latchRead => exact h.congr (deliver_ft _ _) (deliver_pins _ _)
  | uartRecv => exact h.congr (uartTake_ft s) (uartTake_pins s)
  | uartInit | spiInit | latchWaitLow | latchTimerStop | latchArm | uartSend _ => exact h.congr rfl rfl
  | latchDisconnect | latchDriveHigh => exact { h with }

theorem Flickering.execWith (h : Flickering f s) (hx : execWith p i s = .next t) : Flickering f t := by
  have hrun : s.ft.run = true := by rw [h.ft, h.run]
  rcases execWith_cases hx with ⟨-, rfl⟩ | ⟨-, g, -, rfl⟩ | ⟨-, hc, rfl⟩ | ⟨-, rfl⟩ | ⟨-, -, rfl⟩
  · exact h
  · exact h.congr rfl rfl
  · cases hw : waits i with
    | false =>
      rw [startOf_of_not_waits hw]
      exact (h.effectOf (ne_flickerStart_of_precheck hrun hc)).congr rfl rfl
    | true => rcases startOf_of_waits (p := p) (s := s) hw with e | ⟨b, -, e⟩ <;> (rw [e]; exact h.congr rfl rfl)
  · rcases resumeOf_cases p i s with ⟨hw, -, e⟩ | e <;> rw [e]
    · have hi : i ≠ .flickerStart := by
        rintro rfl
        cases hw
      exact (h.effectOf hi).congr rfl rfl
    · exact h.congr rfl rfl
  · exact h

/-- Only FT's move changes the flicker timer, once it is started (42_latch_flicker.md R172). -/
theorem Flickering.takeMove (h : Flickering f s) (hm : m ≠ .ft) (hx : takeMove p m s = .next t) : Flickering f t :=
  takeMove_keeps (P := Flickering f) (hline := fun _ _ _ h => h.congr rfl rfl) (hill := fun _ _ h => h.congr rfl rfl)
    (hagent := fun s h => by
      obtain ⟨-, hpins, -, -, -, -, hft, -⟩ := agentFrame p m s
      exact h.congr (hft hm) hpins)
    (hexec := fun _ _ _ h hx => h.execWith hx) h hx

/-- FT's move is one tick, and the timer flickers on. -/
theorem Flickering.tick (h : Flickering f s) (hx : Machine.takeMove p .ft s = .next t) :
    Flickering (flickerTick p f) t := by
  have hrun : s.ft.run = true := by rw [h.ft, h.run]
  rw [eq_agentStep_of_takeMove hx nofun, agentStep_ft hrun, h.ft]
  exact ⟨rfl, flickerTick_run.trans h.run, by rw [flickerTick_frame]; exact h.connected, h.ddr⟩

/-- A move only adds edges. -/
theorem edges_takeMove (hx : takeMove p m s = .next t) : s.hist.edges <+: t.hist.edges := by
  rw [(RecordedStep.takeMove hx).edges_eq]
  exact List.prefix_append _ _

/-- A move that changes the line's level records the level it went to. -/
theorem count_edges_of_level_ne (hx : takeMove p m s = .next t) (hlevel : level s .flicker ≠ level t .flicker) :
    s.hist.edges.count { line := .flicker, level := level t .flicker } <
      t.hist.edges.count { line := .flicker, level := level t .flicker } := by
  rw [(RecordedStep.takeMove hx).edges_eq]
  simp [edgeOn, hlevel]

/-- At the compare value a tick moves the line. -/
theorem Flickering.level_tick_ne (h : Flickering f s) (hc : f.cnt = f.cmp) (ht : Flickering (flickerTick p f) t) :
    Machine.level s .flicker ≠ Machine.level t .flicker := by
  have hoc : (flickerTick p f).oc = !f.oc := by simp [flickerTick, hc, h.connected]
  rw [h.level, ht.level, hoc]
  cases f.oc <;> simp [drive]

/-- Under `fair_timers` a flickering timer ticks. -/
theorem Execution.Fair.flickerTicks {e : Execution p} {n : Nat} (hfair : e.Fair .ft) (h : Flickering f (e.states n)) :
    ∃ k, n < k ∧ ∃ s, Flickering f s ∧ (e.states n).hist.edges <+: s.hist.edges ∧
      Machine.takeMove p .ft s = .next (e.states k) := by
  refine hfair.leadsTo (P := fun s => Flickering f s ∧ (e.states n).hist.edges <+: s.hist.edges)
    (Q := fun t => ∃ s, Flickering f s ∧ (e.states n).hist.edges <+: s.hist.edges ∧ Machine.takeMove p .ft s = .next t)
    (fun s ⟨h, _⟩ => ?enabled) (fun s _ ⟨h, hedges⟩ hx => ⟨s, h, hedges, hx⟩)
    (fun m s t hm ⟨h, hedges⟩ hx => .inl ⟨h.takeMove hm hx, hedges.trans (edges_takeMove hx)⟩) ⟨h, List.prefix_rfl⟩
  case enabled => rw [moveEnabled, h.ft, h.run]

/-- Off the compare value a tick only counts (42_latch_flicker.md R170). -/
theorem flickerTick_count (h : f.cnt ≠ f.cmp) : flickerTick p f = { f with cnt := (f.cnt + 1) % 2 ^ p.ftWidth } := by
  simp [flickerTick, h]

/-- Some later state has more flicker edges to one level than state `n` has. -/
def Execution.FlickerEdgeAfter (e : Execution p) (n : Nat) : Prop :=
  ∃ k v, n < k ∧ (e.states n).hist.edges.count { line := .flicker, level := v } <
    (e.states k).hist.edges.count { line := .flicker, level := v }

/-- Under `fair_timers` the line of a flickering timer at its compare value moves. -/
theorem Execution.Fair.flickerEdge_of_compare {e : Execution p} {n : Nat} (hfair : e.Fair .ft)
    (h : Flickering f (e.states n)) (hc : f.cnt = f.cmp) : e.FlickerEdgeAfter n := by
  obtain ⟨k, hk, s, hs, hedges, hx⟩ := hfair.flickerTicks h
  have hedge := count_edges_of_level_ne hx (hs.level_tick_ne hc (hs.tick hx))
  exact ⟨k, _, hk, (hedges.sublist.count_le _).trans_lt hedge⟩

/-- Under `fair_timers` a flickering timer that is `d` counts from its compare value gets there, and its line moves. -/
theorem Execution.Fair.flickerEdge {e : Execution p} {d n : Nat} (hfair : e.Fair .ft) (h : Flickering f (e.states n))
    (hcnt : f.cnt < 2 ^ p.ftWidth) (hd : (f.cnt + d) % 2 ^ p.ftWidth = f.cmp) : e.FlickerEdgeAfter n := by
  induction d generalizing n f with
  | zero => exact hfair.flickerEdge_of_compare h ((Nat.mod_eq_of_lt hcnt).symm.trans hd)
  | succ d ih =>
    by_cases hc : f.cnt = f.cmp
    · exact hfair.flickerEdge_of_compare h hc
    · obtain ⟨k, hk, s, hs, hedges, hx⟩ := hfair.flickerTicks h
      have hd' : ((flickerTick p f).cnt + d) % 2 ^ p.ftWidth = (flickerTick p f).cmp := by
        rw [flickerTick_count hc, Nat.mod_add_mod, Nat.add_assoc, Nat.add_comm 1 d]
        exact hd
      obtain ⟨l, v, hl, hcount⟩ := ih (hs.tick hx) flickerTick_cnt_lt hd'
      have hgrown := hedges.trans (edges_takeMove hx)
      exact ⟨l, v, hk.trans hl, (hgrown.sublist.count_le _).trans_lt hcount⟩

end

/-- Settles O59: from any count within its width the timer counts round to its compare value, where a tick moves the line. -/
theorem fairTimersKeepFlickering : Obligations.FairTimersKeepFlickering := by
  rintro p e n ⟨-, hfair⟩ hrun hconnected hddr hfit
  have hround : ((e.states n).ft.cnt + (2 ^ p.ftWidth - (e.states n).ft.cnt + (e.states n).ft.cmp)) % 2 ^ p.ftWidth =
      (e.states n).ft.cmp := by
    rw [← Nat.add_assoc, Nat.add_sub_cancel' hfit.ftCnt.le, Nat.add_mod_left, Nat.mod_eq_of_lt hfit.ftCmp]
  exact hfair.flickerEdge ⟨rfl, hrun, hconnected, hddr⟩ hfit.ftCnt hround

end Sys2Proof.Machine

namespace Sys2Proof.Machine

/-! ### Before PIN_INIT (70_reset_and_hazards.md R241) -/

section
variable {p : Params} {m : Move} {s : State}

/-- Before PIN_INIT every unit is off and holds nothing, so of the agents beside the requester only UP has an enabled step. -/
theorem SetupShape.eq_up_of_enabled (h : SetupShape s) (hr : s.pins.ready = false) (hm : m ≠ .req)
    (hen : moveEnabled m s = true) : ∃ d ok, m = .up d ok := by
  obtain ⟨-, -, huart, hspi, hlt, -, hft⟩ := h.before hr
  obtain ⟨-, hbuf, hshift⟩ := h.uartOff huart
  cases m with
  | req => exact absurd rfl hm
  | utx => simp [moveEnabled, utxLoadEnabled, utxDoneEnabled, hbuf, hshift] at hen
  | spie => simp [moveEnabled, spieEnabled, hspi] at hen
  | lt => simp [moveEnabled, hlt] at hen
  | ft => simp [moveEnabled, hft] at hen
  | up d ok => exact ⟨d, ok, rfl⟩

/-- Before UART_INIT a frame is lost and recorded (43_uart.md R185). -/
theorem SetupShape.agentStep_up_of_not_configured (h : SetupShape s) (hc : s.uart.configured = false) (d : Byte)
    (ok : Bool) : agentStep p (.up d ok) s = raiseFault (.rxWhileDisabled d) s := by
  rw [agentStep_up, upFrame, h.uartOn.1, hc, if_neg Bool.false_ne_true]

end

/-- Settles O7: before PIN_INIT every unit is off, the receiver too. -/
theorem beforePinInitOnlyUpSteps : Obligations.BeforePinInitOnlyUpSteps := by
  intro s h hr
  obtain ⟨-, -, huart, -⟩ := h.before hr
  exact ⟨fun m => h.eq_up_of_enabled hr, fun p d ok => ⟨rfl, h.agentStep_up_of_not_configured huart d ok⟩⟩

/-! ### A run has no end (70_reset_and_hazards.md R263) -/

theorem stepWith_next (p : Params) (s : State) : ∃ t, stepWith p s = .next t := takeMove_next p _ _

/-- Settles O9: a step is some agent's move, and every move and every operation answers a next state. -/
theorem everyStepAnswersNext : Obligations.EveryStepAnswersNext :=
  ⟨stepWith_next, stepWith_next Config.params, execWith_next, exec_next⟩

/-! ### The latch trigger race (70_reset_and_hazards.md R250) -/

section
variable {p : Params} {s : State}

/-- No other agent writes `req.op` (10_state.md R41). -/
theorem op_agentStep (p : Params) (m : Move) (s : State) : (agentStep p m s).req.op = s.req.op := by
  obtain ⟨-, -, hreq, -⟩ := agentFrame p m s
  rw [hreq]

theorem idle_agentStep (h : Idle s) (p : Params) (m : Move) : Idle (agentStep p m s) :=
  ⟨(halted_agentStep p m s).trans h.1, (op_agentStep p m s).trans h.2⟩

/-- A connected line shows the compare output (42_latch_flicker.md R140). -/
theorem level_latch_connected (hddr : s.pins.ddr.latch = true) (hc : s.lt.connected = true) :
    level s .latch = drive s.lt.oc := by
  simp [level_latch, hddr, hc]

/-- LT's step records the edges of the latch line only. -/
theorem edges_agentStep_lt (p : Params) (s : State) :
    (agentStep p .lt s).hist.edges = s.hist.edges ++ edgeOn s (agentStep p .lt s) .latch := by
  obtain ⟨-, hpins, -, -, -, -, hft, -⟩ := agentFrame p .lt s
  have hflicker : level (agentStep p .lt s) .flicker = level s .flicker :=
    level_flicker_congr (by rw [hpins]) (by rw [hpins]) (hft nofun)
  rw [(RecordedStep.takeMove (takeMove_agent (p := p) (m := .lt) nofun s)).edges_eq, edgeOn_of_eq hflicker.symm,
    List.append_nil]

/-- A compare event on a connected line drives what the action makes of the output (42_latch_flicker.md R160). -/
theorem level_agentStep_lt_compare (hddr : s.pins.ddr.latch = true) (hrun : s.lt.run = true)
    (hc : s.lt.connected = true) (hcmp : s.lt.cnt = s.lt.cmp) :
    level (agentStep p .lt s) .latch = drive (latchAct p.latchAction s.lt.oc) := by
  have hshown : level (s.setLt (latchTick p s.lt)) .latch = drive (latchTick p s.lt).oc :=
    level_latch_connected (s := s.setLt _) hddr (latchTick_connected.trans hc)
  rw [agentStep_lt hrun, recordEdges_level, hshown, latchTick_compare_oc hcmp, if_pos hc]

/-- LATCH_DISCONNECT records the fall of a line that is not low (42_latch_flicker.md R142). -/
theorem edges_latchDisconnect (hddr : s.pins.ddr.latch = true) :
    (recordEdges s (latchDisconnect s)).hist.edges =
      s.hist.edges ++ if level s .latch = .low then [] else [{ line := .latch, level := .low }] := by
  have hedges := edges_latchEffect (p := Config.params) (s := s) (i := .latchDisconnect) (by simp)
  rw [effectOf] at hedges
  rw [hedges, edgeOn, level_latchDisconnect hddr]

end

/-- Settles O40: the compare event's action decides whether the low line rises, and LATCH_DISCONNECT takes a risen line down. -/
theorem compareEventRacesTrigger : Obligations.CompareEventRacesTrigger := by
  intro p s hidle hr hddr hrun hc hoc hcmp
  obtain ⟨-, hpins, -⟩ := agentFrame p .lt s
  have hlow : level s .latch = .low := by rw [level_latch_connected hddr hc, drive_low, hoc]
  have hlevel := level_agentStep_lt_compare (p := p) hddr hrun hc hcmp
  refine ⟨_, exec_latch (i := .latchDisconnect) (idle_agentStep hidle p .lt) (by rw [hpins, hr]) (by simp) rfl, ?_⟩
  rw [effectOf, edges_latchDisconnect (by rw [hpins, hddr]), edges_agentStep_lt, edgeOn, hlow, hlevel, hoc]
  exact ⟨fun ha => by simp [ha, latchAct, drive], fun ha => by simp [ha, latchAct, drive]⟩

end Sys2Proof.Machine

namespace Sys2Proof.Machine

/-! ### No wait times out (70_reset_and_hazards.md R255) -/

/-- The agents whose steps can make the condition of the operation's `await` true (41_spi.md R124, 42_latch_flicker.md R165,
43_uart.md R186, R192). -/
def waitsFor (i : Instr) (m : Move) : Prop :=
  match i with
  | .spiXfer _ => m = .spie
  | .latchWaitLow => m = .lt
  | .uartRecv => ∃ d ok, m = .up d ok
  | .uartSend _ => m = .utx
  | _ => False

section
variable {p : Params} {m : Move} {ms : List Move} {i : Instr} {s t : State}

/-- The requester is held at the operation's `await`, whose condition does not hold. -/
structure Waiting (i : Instr) (s : State) : Prop where
  held  : HeldAt i s
  await : awaitHolds i s = false

/-- The latch line is told by its own bits and its own timer. -/
theorem level_latch_congr (hp : t.pins = s.pins) (hl : t.lt = s.lt) : level t .latch = level s .latch := by
  simp [level_latch, hp, hl]

/-- No other agent than the one an operation waits for writes what its `await` reads. -/
theorem awaitHolds_agentStep (hm : ¬ waitsFor i m) : awaitHolds i (agentStep p m s) = awaitHolds i s := by
  obtain ⟨-, hpins, -, -, -, hlt, -, hspi, -, -, -, -, hutx, hup, -⟩ := agentFrame p m s
  cases i with
  | spiXfer b => simp only [awaitHolds, hspi hm]
  | latchWaitLow => simp only [awaitHolds, latchLow, level_latch_congr hpins (hlt hm)]
  | uartRecv =>
    obtain ⟨hfifo, -⟩ := hup fun d ok e => hm ⟨d, ok, e⟩
    simp only [awaitHolds, rxReady, hfifo]
  | uartSend b =>
    obtain ⟨hbuf, -⟩ := hutx hm
    simp only [awaitHolds, txReady, hbuf]
  | _ => rfl

theorem heldAt_agentStep (h : HeldAt i s) (p : Params) (m : Move) : HeldAt i (agentStep p m s) :=
  ⟨(halted_agentStep p m s).trans h.1, (op_agentStep p m s).trans h.2⟩

/-- While the requester waits its own move changes nothing, so every move is an agent's step. -/
theorem Waiting.eq_agentStep (h : Waiting i s) (hx : takeMove p m s = .next t) : t = agentStep p m s := by
  by_cases hm : m = .req
  · have hstill : resumeOf p i s = s := by
      rcases resumeOf_cases p i s with ⟨-, hpass, -⟩ | e
      · exact absurd (h.await.symm.trans hpass) nofun
      · exact e
    have hself : agentStep p .req s = s := recordEdges_self s
    rw [hm, takeMove_req, reqStep_held h.held, execWith_resume h.held, hstill, recordEdges_self] at hx
    injection hx with hx
    rw [hm, hself, hx]
  · exact eq_agentStep_of_takeMove hx hm

/-- While the agent it waits for does not step an operation waits on. -/
theorem Waiting.takeMove (h : Waiting i s) (hm : ¬ waitsFor i m) (hx : takeMove p m s = .next t) : Waiting i t := by
  rw [h.eq_agentStep hx]
  exact ⟨heldAt_agentStep h.held p m, (awaitHolds_agentStep hm).trans h.await⟩

theorem Waiting.runMoves (h : Waiting i s) (hms : ∀ m ∈ ms, ¬ waitsFor i m) (hx : runMoves p ms s = .next t) :
    Waiting i t :=
  runMoves_keeps (P := Waiting i) (fun m hm _ _ h hx => h.takeMove (hms m hm) hx) h hx

/-- LATCH_WAIT_LOW is held at a high line that no compare event can move (42_latch_flicker.md R165). -/
structure StuckHigh (s : State) : Prop where
  held : HeldAt .latchWaitLow s
  high : level s .latch = .high
  off  : s.lt.connected = false ∨ s.lt.run = false

theorem StuckHigh.waiting (h : StuckHigh s) : Waiting .latchWaitLow s :=
  ⟨h.held, by simp [awaitHolds, latchLow, h.high]⟩

/-- A stopped timer does not tick, and a tick of a disconnected one does not move the line (42_latch_flicker.md R160, R163). -/
theorem level_agentStep_lt_off (h : s.lt.connected = false ∨ s.lt.run = false) :
    level (agentStep p .lt s) .latch = level s .latch := by
  cases hrun : s.lt.run with
  | false => rw [agentStep_of_disabled (m := .lt) nofun hrun]
  | true =>
    have hdis : s.lt.connected = false := h.resolve_right (by simp [hrun])
    simp [agentStep_lt_of_oc hrun (latchTick_oc_disconnected hdis), level_latch, latchTick_connected, hdis]

/-- No agent's step connects or starts the latch timer, or moves a line that it cannot move. -/
theorem StuckHigh.agentStep (h : StuckHigh s) (p : Params) (m : Move) : StuckHigh (agentStep p m s) := by
  obtain ⟨-, hpins, -, -, -, hlt, -, -, hframe, -⟩ := agentFrame p m s
  have hlevel : level (Machine.agentStep p m s) .latch = level s .latch := by
    by_cases hm : m = .lt
    · exact hm ▸ level_agentStep_lt_off h.off
    · exact level_latch_congr hpins (hlt hm)
  exact ⟨heldAt_agentStep h.held p m, hlevel.trans h.high, by rw [hframe]; exact h.off⟩

theorem StuckHigh.runMoves (h : StuckHigh s) (hx : runMoves p ms s = .next t) : StuckHigh t :=
  runMoves_keeps (P := StuckHigh) (fun m _ _ _ h hx => h.waiting.eq_agentStep hx ▸ h.agentStep p m) h hx

end

/-- Settles O56: in each of the four waits the condition of the `await` does not hold and the moves leave out the agent waited
for; a stuck line is left stuck by every agent. -/
theorem waitsNeverTimeOut : Obligations.WaitsNeverTimeOut := by
  intro p ms s t hx
  have hwait {i : Instr} (hheld : HeldAt i s) (ha : awaitHolds i s = false) (hms : ∀ m ∈ ms, ¬ waitsFor i m) :
      HeldAt i t := (Waiting.runMoves ⟨hheld, ha⟩ hms hx).held
  refine ⟨fun b hheld hdone hms => ?spi, fun hheld hlow hms => ?latch, fun hheld hhigh hoff => ?stuck,
    fun hheld hfifo hms => ?recv, fun b hheld hbuf hms => ?send⟩
  case spi => exact hwait hheld hdone fun m hm e => hms (e ▸ hm)
  case latch => exact hwait hheld (decide_eq_false hlow) fun m hm e => hms (e ▸ hm)
  case stuck =>
    have hstuck : StuckHigh t := StuckHigh.runMoves ⟨hheld, hhigh, hoff⟩ hx
    exact ⟨hstuck.held, hstuck.high⟩
  case recv => exact hwait hheld (by simp [awaitHolds, rxReady, hfifo]) fun m hm ⟨d, ok, e⟩ => hms d ok (e ▸ hm)
  case send =>
    have hfull : awaitHolds (.uartSend b) s = false := by simpa [awaitHolds, txReady, Option.isSome_iff_ne_none] using hbuf
    exact hwait hheld hfull fun m hm e => hms (e ▸ hm)

end Sys2Proof.Machine
